-- ==== Sys2Proof/Word.lean ====
section
/-! DEFINITION. The fixed-width numbers of TFTCORE (spec/00_scope.md R9: `u8`, `u16`, `u32`; every quantity is
unsigned). Unbounded naturals (`nat`) are Lean's `Nat`. -/

namespace Sys2Proof

/-- `u8` of R9. -/
abbrev Byte := BitVec 8

/-- `u16` of R9: a window coordinate (R75), a packed color (R78). -/
abbrev Half := BitVec 16

/-- `u32` of R9: a bitmap header dimension (R29). -/
abbrev Word := BitVec 32

end Sys2Proof
end

