-- ==== Sys2Proof/Config.lean ====
section
/-! DEFINITION. The implementation parameters of spec/00_scope.md R6 (the Panel configuration and protocol constants,
10_state.md R35), the kinds of answers the collaborator gives (R7, R8, R12), and the free values: constants with no
body, so that nothing can be proved about which value they are. -/

namespace Sys2Proof

/-- The level of a control line (R6, R26, R100). -/
inductive Level where
  | low
  | high
deriving DecidableEq, Repr, Inhabited

/-- The level opposite to `l` (R100: `CS_INACTIVE`, `DC_DATA`). -/
def Level.opposite : Level → Level
  | .low => .high
  | .high => .low

/-- The duration parameters of R6, by name. -/
inductive Delay where
  | rstLow
  | rstHigh
  | swreset
  | slpout
  | colmod
  | madctl
  | dispon
deriving DecidableEq, Repr

/-- The parameters of R6. They are read-only for the life of an instance (R20, R35). -/
structure Config where
  /-- `PANEL_W`, panel logical width in pixels. -/
  panelW : Nat
  /-- `PANEL_H`, panel logical height in pixels. -/
  panelH : Nat
  /-- `SWAP_RB`, channel-order flag of the codec. -/
  swapRb : Bool
  /-- `MADCTL_VAL`, memory-access-control payload. -/
  madctlVal : Byte
  /-- `COLMOD_VAL`, pixel-format payload. -/
  colmodVal : Byte
  /-- MODEL'S OWN (DESIGN CHOICE, log 5): whether `COLMOD_VAL` selects 16-bit color on the real controller. R127 says
  that a value that does not is a configuration error which no rule detects, and that it makes every GRAM effect
  unspecified. -/
  colmodIs16 : Bool
  /-- `HAS_RST`, a reset control line is wired. -/
  hasRst : Bool
  cmdSwreset : Byte
  cmdSlpout : Byte
  cmdColmod : Byte
  cmdMadctl : Byte
  cmdCaset : Byte
  cmdRaset : Byte
  cmdRamwr : Byte
  cmdDispon : Byte
  /-- `HEADER_SIZE`, byte offset at which bitmap pixel data begins. -/
  headerSize : Nat
  /-- `FILL_CHUNK`, bytes per chunk in `fill`. -/
  fillChunk : Nat
  tRstLow : Nat
  tRstHigh : Nat
  tSwreset : Nat
  tSlpout : Nat
  tColmod : Nat
  tMadctl : Nat
  tDispon : Nat
  /-- `CS_ACTIVE`, level of the bus-select line while selected. -/
  csActive : Level
  /-- `DC_CMD`, level of the command/data line in command mode. -/
  dcCmd : Level
deriving DecidableEq, Repr

/-- The default values of R6. The parameters R6 leaves OPEN (`MADCTL_VAL`, `HAS_RST`, `FILL_CHUNK`, the durations) take
the values the model names in log 4 (DESIGN CHOICE, unsafe: a claim must not rest on them). -/
def Config.default : Config where
  panelW := 240
  panelH := 320
  swapRb := true
  madctlVal := 0x00
  colmodVal := 0x55
  colmodIs16 := true
  hasRst := false
  cmdSwreset := 0x01
  cmdSlpout := 0x11
  cmdColmod := 0x3A
  cmdMadctl := 0x36
  cmdCaset := 0x2A
  cmdRaset := 0x2B
  cmdRamwr := 0x2C
  cmdDispon := 0x29
  headerSize := 54
  fillChunk := 8
  tRstLow := 0
  tRstHigh := 0
  tSwreset := 0
  tSlpout := 0
  tColmod := 0
  tMadctl := 0
  tDispon := 0
  csActive := .low
  dcCmd := .low

/-- The eight command codes TFTCORE emits (R74, R89). -/
def Config.commandCodes (c : Config) : List Byte :=
  [c.cmdSwreset, c.cmdSlpout, c.cmdColmod, c.cmdMadctl, c.cmdCaset, c.cmdRaset, c.cmdRamwr, c.cmdDispon]

/-- The legal ranges of R6: dimensions 1 to 65536, `HEADER_SIZE` at least 30, `FILL_CHUNK` at least 1, command codes
pairwise distinct. A configuration outside them is refused at construction (R35, 93 I17). -/
def Config.wf (c : Config) : Bool :=
  decide (1 ≤ c.panelW ∧ c.panelW ≤ 65536 ∧ 1 ≤ c.panelH ∧ c.panelH ≤ 65536 ∧ 30 ≤ c.headerSize ∧ 1 ≤ c.fillChunk ∧
    c.commandCodes.Nodup)

/-- The value of a duration parameter. No rule reads it, and no trace shows it (R223, R248). -/
def Config.duration (c : Config) : Delay → Nat
  | .rstLow => c.tRstLow
  | .rstHigh => c.tRstHigh
  | .swreset => c.tSwreset
  | .slpout => c.tSlpout
  | .colmod => c.tColmod
  | .madctl => c.tMadctl
  | .dispon => c.tDispon

/-- The collaborator's answer to one byte transfer (R12, R109, R130). A failed byte may or may not have reached the
controller: both successors are admitted. -/
inductive TxAns where
  | ok
  | failDelivered
  | failLost
deriving DecidableEq, Repr, Inhabited

/-- The transfer was answered `ok`. -/
def TxAns.isOk : TxAns → Bool
  | .ok => true
  | .failDelivered => false
  | .failLost => false

/-- The byte reached the controller. -/
def TxAns.isReceived : TxAns → Bool
  | .ok => true
  | .failDelivered => true
  | .failLost => false

/-- The collaborator's answer to one source read (R11): a failure, or bytes. Bytes fewer than requested are a short
read; bytes beyond the request are not part of the answer (log 32). -/
inductive SrcAns where
  | fail
  | data (bytes : List Byte)
deriving DecidableEq, Repr, Inhabited

/-! Free values (R8, R37 "the model draws any value"). The first argument is the number of the draw
(`State.freeCtr`); a second argument tells apart the values of one draw. -/

/-- A free answer to a bus claim, a source open, a CANCEL sample, or a free one-bit register. -/
opaque Config.freeBool : Nat → Nat → Bool

/-- A free answer to a byte transfer (R8). -/
opaque Config.freeTx : Nat → TxAns

/-- A free answer to a source read (R8). -/
opaque Config.freeRead : Nat → SrcAns

/-- A free 8-bit register of the controller (R37). -/
opaque Config.freeByte : Nat → Nat → Byte

/-- A free 16-bit register of the controller (R37). -/
opaque Config.freeHalf : Nat → Nat → Half

/-- A free natural register of the controller (93 I7, I9). -/
opaque Config.freeNat : Nat → Nat → Nat

/-- A free register that holds a byte or NONE (93 I7, I9). -/
opaque Config.freeOptByte : Nat → Nat → Option Byte

/-- A free byte of GRAM at a GRAM byte address (R37, 93 I1-I3). -/
opaque Config.freeGram : Nat → Nat → Byte

end Sys2Proof
end

