-- ==== Sys2Proof/Syntax.lean ====
section
/-! DEFINITION. The instructions: the seven host operations (spec/30_encoding.md R87) and the eight controller commands
(R74), one constructor per row of spec/opcode_table.json, with the operands of their rules. -/

namespace Sys2Proof

/-- One byte as it arrives: on the host request port (R39, R86), or on the controller's bus labelled by the
command/data line as `C(b)` or `D(b)` (R40, R85, R121). -/
inductive WireByte where
  /-- A byte of a host request. -/
  | req (b : Byte)
  /-- `C(b)`: a byte transferred in command mode. -/
  | cmd (b : Byte)
  /-- `D(b)`: a byte transferred in data mode. -/
  | data (b : Byte)
deriving DecidableEq, Repr

/-- The rows of spec/opcode_table.json. -/
inductive Instr where
  /-- INIT (R141). -/
  | init
  /-- SET_WINDOW `x0, y0, x1, y1` (R143). -/
  | setWindow (x0 y0 x1 y1 : Half)
  /-- WRITE_PIXELS `bytes` (R145); `n` is the length of the list. -/
  | writePixels (bytes : List Byte)
  /-- END_WRITE (R147). -/
  | endWrite
  /-- FILL `color` (R148). -/
  | fill (color : Half)
  /-- CONVERT `r, g, b` (R170). -/
  | convert (r g b : Byte)
  /-- DECODE_BMP `h` (R181). -/
  | decodeBmp (h : Byte)
  /-- SWRESET (R122). -/
  | swreset
  /-- SLPOUT (R123). -/
  | slpout
  /-- CASET with its payload `x0, x1` (R124). -/
  | caset (x0 x1 : Half)
  /-- RASET with its payload `y0, y1` (R125). -/
  | raset (y0 y1 : Half)
  /-- RAMWR and the pixel stream after it (R126). -/
  | ramwr (stream : List Byte)
  /-- COLMOD with its payload byte (R127). -/
  | colmod (v : Byte)
  /-- MADCTL with its payload byte (R128). -/
  | madctl (v : Byte)
  /-- DISPON (R129). -/
  | dispon
deriving DecidableEq, Repr

end Sys2Proof
end

