-- ==== Sys2Proof/Machine/State.lean ====
section
/-! DEFINITION. The state of TFTCORE (spec/10_state.md), of the reference controller model (R37) and of the ports (R39,
R40), as plain data; the reasons a step can stop; the state after reset (R41, 70_reset_and_hazards.md R240). -/

namespace Sys2Proof.Machine

/-- `drv_state` (R21). `Resetting` and `Initializing` hold only during INIT. -/
inductive DrvState where
  | uninitialized
  | resetting
  | initializing
  | ready
  | failed
deriving DecidableEq, Repr

/-- `dc`: what the command/data line was last driven to (R24). -/
inductive DcMode where
  | cmd
  | data
  | unknown
deriving DecidableEq, Repr

/-- `seq`, the sequencer (R28). -/
inductive Seq where
  | idle
  | initClaim
  | initS1
  | initS2
  | initS3
  | initS4
  | initS5
  | initS6
  | fillWin
  | fillData (sent : Nat)
  | fillClose
  | bmpOpen
  | bmpHdr
  | bmpCheck
  | bmpWin
  | bmpRow (r : Nat)
  | bmpDone
deriving DecidableEq, Repr

/-- The decoder registers that hold no value until DECODE_BMP writes them (R29). -/
inductive DecReg where
  | srcW
  | srcH
  | bpp
  | w
  | h
  | rowSize
  | row
deriving DecidableEq, Repr

/-- The internal buffers (R30, R31, R50). -/
inductive Buffer where
  | hdr
  | inbuf
  | outbuf
deriving DecidableEq, Repr

/-- The completion codes of 60_exceptions.md R210. `configParseError` is reserved and never raised (R229). -/
inductive StCode where
  | ok
  | formatError
  | unsupportedFormatError
  | transferError
  | resourceNotFoundError
  | configParseError
  | sourceReadError
  | initError
  | illegalStateError
  | windowRangeError
  | illegalOpError
  | cancelled
deriving DecidableEq, Repr

/-- The reason tags of R211. -/
inductive Reason where
  | badSignature
  | shortHeader
  | zeroSize
  | bitDepth
  | busClaim
  | transfer
  | noOpenWindow
  | state
deriving DecidableEq, Repr

/-- The operation named in `st_info` (R211). A request refused at its decoding (R86, R88) is named by its op byte (log 14). -/
inductive OpName where
  | init
  | setWindow
  | writePixels
  | endWrite
  | fill
  | convert
  | decodeBmp
  | opByte (op : Byte)
deriving DecidableEq, Repr

/-- The kind of frame a transfer failed in (R102, R103, R106, R211). -/
inductive FrameKind where
  | cmd
  | data
  | stream
deriving DecidableEq, Repr

/-- The frame kind, the command byte of a command frame, and the byte index of a failed transfer (R102, R103, R106). -/
structure TransferInfo where
  frame : FrameKind
  cmd : Option Byte
  byteIndex : Nat
deriving DecidableEq, Repr

/-- The values a raising rule names (R211). -/
inductive Detail where
  | none
  /-- The signature bytes found (R184). -/
  | signature (b0 b1 : Byte)
  /-- The length of a short header (R182). -/
  | headerLength (got : Nat)
  /-- The width and height of a zero-size image (R187). -/
  | size (width height : Word)
  /-- The declared bit depth (R185). -/
  | depth (bpp : Half)
  /-- The row (none for the header), offset and length of a failed source read (R182, R188). -/
  | sourceRead (row : Option Nat) (offset n : Nat)
  /-- A failed transfer (R102, R103, R106). -/
  | transfer (t : TransferInfo)
  /-- The INIT step and, for a transfer failure, the transfer (R141, R215). -/
  | initStep (step : Nat) (t : Option TransferInfo)
  /-- The window operands (R143). -/
  | window (x0 y0 x1 y1 : Half)
  /-- `drv_state` at an illegal operation (R140). -/
  | drvState (d : DrvState)
  /-- The rows written before a cancel (R192). -/
  | rowsWritten (n : Nat)
deriving DecidableEq, Repr

/-- The diagnostic record `st_info` (R211). -/
structure StInfo where
  op : Option OpName
  source : Option Byte
  reason : Option Reason
  detail : Detail
deriving DecidableEq, Repr

/-- "For `OK`, `st_info` is empty" (R211). -/
def StInfo.empty : StInfo := ⟨none, none, none, .none⟩

/-- The answer of a source read (R11), cut to the request: exactly `n` bytes, fewer, or a failure. -/
inductive ReadAns where
  | ok (bytes : List Byte)
  | short (bytes : List Byte)
  | fail
deriving DecidableEq, Repr

/-- The port events of the trace (R40), each with its answer where it has one. `wait` names its duration parameter, as R110
and R142 write it; the duration itself is not in the trace (R248). -/
inductive Event where
  | pinCs (lvl : Level)
  | pinDc (lvl : Level)
  | pinRst (lvl : Level)
  | tx (b : Byte) (ok : Bool)
  | wait (t : Delay)
  | busClaim (ok : Bool)
  | srcOpen (h : Byte) (ok : Bool)
  | srcRead (off n : Nat) (ans : ReadAns)
  | srcClose
deriving DecidableEq, Repr

/-- The registers of the external display controller, as the reference controller model keeps them (R37). -/
structure Ctl where
  /-- `ctl_cmd`: the last command byte received, or NONE. -/
  cmd : Option Byte
  /-- `ctl_argi`: payload bytes received since the last command byte. -/
  argi : Nat
  /-- `ctl_args[0..3]`. -/
  arg0 : Byte
  arg1 : Byte
  arg2 : Byte
  arg3 : Byte
  xs : Half
  xe : Half
  ys : Half
  ye : Half
  madctl : Byte
  colmod : Byte
  /-- MODEL'S OWN: a COLMOD payload has been received since the last reset of the controller (R127). -/
  colmodRecv : Bool
  sleep : Bool
  disp : Bool
  /-- `ctl_wp`: pixels written since the last memory-write command. -/
  wp : Nat
  /-- `ctl_hi`: first byte of a pixel whose second byte has not arrived, or NONE. -/
  hi : Option Byte
deriving DecidableEq, Repr

/-- The controller's registers at their reset values (R37); the unspecified ones are the free values of draw `n`. -/
def Ctl.afterReset (n : Nat) : Ctl where
  cmd := none
  argi := 0
  arg0 := Config.freeByte n 0
  arg1 := Config.freeByte n 1
  arg2 := Config.freeByte n 2
  arg3 := Config.freeByte n 3
  xs := Config.freeHalf n 0
  xe := Config.freeHalf n 1
  ys := Config.freeHalf n 2
  ye := Config.freeHalf n 3
  madctl := Config.freeByte n 4
  colmod := Config.freeByte n 5
  colmodRecv := false
  sleep := true
  disp := false
  wp := 0
  hi := none

/-- Who drives the controller's bus (R63, log 1). -/
inductive BusDriver where
  /-- TFTCORE alone (R63). No byte reaches the controller but as a `Tx` of a host operation. -/
  | core
  /-- MODEL'S OWN: the reference controller by itself, with no TFTCORE on its bus. -/
  | bench
deriving DecidableEq, Repr

/-- What the host response port carries (R39, R86): the status and the bytes of the result. -/
structure Response where
  code : StCode
  info : StInfo
  bytes : List Byte
deriving DecidableEq, Repr

/-- The whole state. Memories are lists of (address, byte) cells with rising addresses; an unlisted address holds no
specified value. -/
structure State where
  /-- The configuration registers (R6, R35). -/
  cfg : Config
  /-- `drv_state` (R21). -/
  drvState : DrvState
  /-- `bus_sel` (R23). -/
  busSel : Bool
  /-- `dc` (R24). -/
  dc : DcMode
  /-- `stream_open` (R25). -/
  streamOpen : Bool
  /-- `rst_lvl` (R26); it exists only when `HAS_RST`. -/
  rstLvl : Level
  /-- `seq` (R28). -/
  seq : Seq
  /-- `dec_src_w` (R29). -/
  decSrcW : Word
  /-- `dec_src_h` (R29). -/
  decSrcH : Word
  /-- `dec_bpp` (R29). -/
  decBpp : Half
  /-- `dec_w` (R29). -/
  decW : Nat
  /-- `dec_h` (R29). -/
  decH : Nat
  /-- `dec_row_size` (R29). -/
  decRowSize : Nat
  /-- `dec_row` (R29). -/
  decRow : Nat
  /-- `dec_src_open` (R29). -/
  decSrcOpen : Bool
  /-- MODEL'S OWN: the decoder registers written by the running DECODE_BMP (R29). -/
  decWritten : List DecReg
  /-- `HDR` (R30), its contents kept from one image to the next. -/
  hdr : List Host.Cell
  /-- `INBUF` (R31), kept likewise. -/
  inbuf : List Host.Cell
  /-- `OUTBUF` (R31), kept likewise. -/
  outbuf : List Host.Cell
  /-- MODEL'S OWN: how many leading bytes of `HDR` the running DECODE_BMP has written (93 I14). -/
  hdrWritten : Nat
  /-- MODEL'S OWN: the same of `INBUF`. -/
  inbufWritten : Nat
  /-- MODEL'S OWN: the same of `OUTBUF`. -/
  outbufWritten : Nat
  /-- `st_code` (R33). -/
  stCode : StCode
  /-- `st_info` (R33). -/
  stInfo : StInfo
  /-- The host response port's u16: the result of a CONVERT (R39, R86). -/
  result : Option Half
  /-- The external controller (R37). -/
  ctl : Ctl
  /-- `GRAM` (R37, R50), two bytes a pixel at the addresses of `gramAddr`. -/
  gram : List Host.Cell
  /-- MODEL'S OWN: the draw that unlisted GRAM bytes read as. -/
  gramEpoch : Nat
  /-- The trace (R40), newest event first. -/
  trace : List Event
  /-- MODEL'S OWN: who drives the controller's bus (R63, log 1). No step ever answers `bench` where it was `core`. -/
  busDriver : BusDriver
  /-- INPUT: bytes waiting on the host request port or, for the controller by itself, on its bus (log 1). -/
  input : List WireByte
  /-- INPUT: a construction of a new instance the host asks for (R240). -/
  newInstance : Option Config
  /-- INPUT: the answers to the next bus claims (R8, R12). -/
  claimIn : List Bool
  /-- INPUT: the answers to the next byte transfers. -/
  txIn : List TxAns
  /-- INPUT: the answers to the next source opens. -/
  openIn : List Bool
  /-- INPUT: the answers to the next source reads. -/
  readIn : List SrcAns
  /-- INPUT: the level of CANCEL at the next sampling points (R192). -/
  cancelIn : List Bool
  /-- MODEL'S OWN: the number of the next free value. -/
  freeCtr : Nat
deriving DecidableEq, Repr

/-- Why the machine stops. Each is the model's check of something the rules never let happen (R101, 93 I13, I14) or of
an address that does not exist. All are safe: the model stops where the spec gives no behaviour. -/
inductive Fault where
  /-- A framing primitive entered with `bus_sel = true` (R101, 93 I13). Raised by `requireIdleBus`. Safe. -/
  | frameOpen
  /-- APPEND with `stream_open = false` (R106, 93 I13). Raised by `append`. Safe. -/
  | streamClosed
  /-- A data frame of no bytes (R103 "n = 0 is never issued"). Raised by `dataFrame`. Safe. -/
  | emptyFrame
  /-- A read of a decoder register the running DECODE_BMP has not written (R29, 93 I14). Raised by `readDec`. Safe. -/
  | unwrittenDecoder (r : DecReg)
  /-- A read of a buffer byte the running DECODE_BMP has not written (R30, R31, 93 I14). Raised by `readBuffer`. Safe. -/
  | unwrittenBuffer (b : Buffer) (index : Nat)
  /-- An index beyond a buffer's size (R30, R31, R50). Raised by `writeBuffer`. Safe. -/
  | bufferRange (b : Buffer) (index : Nat)
  /-- A pixel that lands outside the panel: no such GRAM cell (R50, R52). Raised by `ctlPixel`. Safe. -/
  | gramOutsidePanel (x y : Nat)
  /-- A FILL that could never end because `FILL_CHUNK` is 0, outside R6's range (93 I17). Raised by `fillLoop`. Safe. -/
  | fillChunkZero
deriving DecidableEq, Repr

/-- Why the model has no meaning for what it was given. All are safe: the model stops. -/
inductive Refusal where
  /-- An instruction with no meaning yet. Raised by `exec`. Safe. -/
  | notModelled (mnemonic : String)
  /-- A command or data byte waits while TFTCORE drives the bus: "no agent other than TFTCORE" (R63). Raised by `step`. -/
  | foreignBus
  /-- A host request waits where no TFTCORE stands (log 1). Raised by `step`. -/
  | noCore
  /-- A command byte that is none of the eight: "outside this spec" (R89). Raised by `step`. -/
  | unknownCommand (code : Byte)
  /-- A configuration outside the ranges of R6, refused at construction (R35, 93 I17). Raised by `step`. -/
  | illFormedConfig
deriving DecidableEq, Repr

/-- An instance of the block with configuration `c`, just constructed (R41, R240), beside a controller at its own reset
values (R37). The registers R41 gives no value hold 0 (DESIGN CHOICE, log 8). -/
def State.resetWith (c : Config) : State where
  cfg := c
  drvState := .uninitialized
  busSel := false
  dc := .unknown
  streamOpen := false
  rstLvl := .high
  seq := .idle
  decSrcW := 0
  decSrcH := 0
  decBpp := 0
  decW := 0
  decH := 0
  decRowSize := 0
  decRow := 0
  decSrcOpen := false
  decWritten := []
  hdr := []
  inbuf := []
  outbuf := []
  hdrWritten := 0
  inbufWritten := 0
  outbufWritten := 0
  stCode := .ok
  stInfo := StInfo.empty
  result := none
  ctl := Ctl.afterReset 0
  gram := []
  gramEpoch := 0
  trace := []
  busDriver := .core
  input := []
  newInstance := none
  claimIn := []
  txIn := []
  openIn := []
  readIn := []
  cancelIn := []
  freeCtr := 1

/-- The machine right after reset: an instance with the default configuration of R6 (log 4). -/
def State.reset : State := State.resetWith Config.default

end Sys2Proof.Machine
end

