-- ==== Sys2Proof/Machine/Flags.lean ====
section
/-! DEFINITION. TFTCORE has no condition codes and no arithmetic flags (spec/10_state.md R34). What its operations test
instead: legality by `drv_state` (R22), the window bounds (R143), the class of a completion code (60_exceptions.md R210,
R212); and the code numbers the host reads (R33). -/

namespace Sys2Proof.Machine

/-- INIT is legal in `Uninitialized` and `Ready` (R22, R141). -/
def initLegal (d : DrvState) : Bool := decide (d = .uninitialized ∨ d = .ready)

/-- SET_WINDOW, WRITE_PIXELS, END_WRITE, FILL and DECODE_BMP are legal in `Ready` alone (R22). -/
def pixelLegal (d : DrvState) : Bool := decide (d = .ready)

/-- The AddressWindow invariant (R15, R143): `x0 ≤ x1 < PANEL_W` and `y0 ≤ y1 < PANEL_H`. -/
def windowInRange (c : Config) (x0 y0 x1 y1 : Half) : Bool :=
  decide (x0.toNat ≤ x1.toNat ∧ x1.toNat < c.panelW ∧ y0.toNat ≤ y1.toNat ∧ y1.toNat < c.panelH)

/-- The number of a completion code, the `u8` the host reads (R33, R210). -/
def StCode.number : StCode → Byte
  | .ok => 0
  | .formatError => 1
  | .unsupportedFormatError => 2
  | .transferError => 3
  | .resourceNotFoundError => 4
  | .configParseError => 5
  | .sourceReadError => 6
  | .initError => 7
  | .illegalStateError => 8
  | .windowRangeError => 9
  | .illegalOpError => 10
  | .cancelled => 11

/-- The usage errors of R212: codes 8, 9 and 10. -/
def StCode.isUsage : StCode → Bool
  | .illegalStateError => true
  | .windowRangeError => true
  | .illegalOpError => true
  | _ => false

/-- The codes that leave an open stream open: "it does not close an open stream" (R214, code 8), "no port event and no
state change other than the status register" (R88, 93 I15, code 10). Every other raise runs the abort sequence (R13, R216,
90_conflicts.md C2; log 12). -/
def StCode.statusOnly : StCode → Bool
  | .illegalStateError => true
  | .illegalOpError => true
  | .ok => false
  | .formatError => false
  | .unsupportedFormatError => false
  | .transferError => false
  | .resourceNotFoundError => false
  | .configParseError => false
  | .sourceReadError => false
  | .initError => false
  | .windowRangeError => false
  | .cancelled => false

end Sys2Proof.Machine
end

