-- ==== Sys2Proof/WellFormed.lean ====
section
/-! DEFINITION. Which instructions have an encoding (spec/30_encoding.md R86). Every operand has its field's width by
its type; the one bound the types do not carry is that `n` of WRITE_PIXELS travels in 4 bytes. -/

namespace Sys2Proof

/-- `n` of WRITE_PIXELS is "4 bytes, big-endian" (R86), so at most 2^32 - 1 data bytes. Window bounds are no matter of
form: SET_WINDOW checks them when it runs (R143). -/
def wellFormed : Instr → Bool
  | .init => true
  | .setWindow _ _ _ _ => true
  | .writePixels bytes => decide (bytes.length < 4294967296)
  | .endWrite => true
  | .fill _ => true
  | .convert _ _ _ => true
  | .decodeBmp _ => true
  | .swreset => true
  | .slpout => true
  | .caset _ _ => true
  | .raset _ _ => true
  | .ramwr _ => true
  | .colmod _ => true
  | .madctl _ => true
  | .dispon => true

end Sys2Proof
end

