-- ==== Sys2Proof/Decode.lean ====
section
/-! DEFINITION. Byte order helpers (spec/00_scope.md R9, 20_memory.md R53), the decoder of host requests
(30_encoding.md R86-R88) and of command frames on the bus view (R71-R75, R85), and the encoder of both. -/

namespace Sys2Proof

/-- `be16(h, l) = (h << 8) | l` (R9). -/
def be16 (h l : Byte) : Half := h ++ l

/-- `le16(b0, b1) = b0 | (b1 << 8)` (R9). -/
def le16 (b0 b1 : Byte) : Half := b1 ++ b0

/-- `le32(b0, b1, b2, b3)` (R9). -/
def le32 (b0 b1 b2 b3 : Byte) : Word := (b3 ++ b2) ++ (b1 ++ b0)

/-- `be32`: the 4 bytes of `n` in a WRITE_PIXELS request, big-endian (R86). -/
def be32 (b0 b1 b2 b3 : Byte) : Word := (b0 ++ b1) ++ (b2 ++ b3)

/-- `v[15:8]`. -/
def hiByte (v : Half) : Byte := v.extractLsb' 8 8

/-- `v[7:0]`. -/
def loByte (v : Half) : Byte := v.extractLsb' 0 8

/-- The wire form of a u16, high byte first (R53, R86, R171). -/
def be16Bytes (v : Half) : List Byte := [hiByte v, loByte v]

/-- The wire form of a u32, big-endian (R86). -/
def be32Bytes (v : Word) : List Byte :=
  [v.extractLsb' 24 8, v.extractLsb' 16 8, v.extractLsb' 8 8, v.extractLsb' 0 8]

/-- The 4-byte payload of CASET and RASET (R75): `[start[15:8], start[7:0], end[15:8], end[7:0]]`. -/
def windowPayload (first last : Half) : List Byte := be16Bytes first ++ be16Bytes last

/-- What stands at the front of the waiting bytes. -/
inductive Decoded where
  /-- Nothing waits. -/
  | idle
  /-- A whole instruction, and the bytes after it. -/
  | instr (i : Instr) (rest : List WireByte)
  /-- A reserved op byte (R88), and the bytes after it. -/
  | reservedOp (b : Byte) (rest : List WireByte)
  /-- A request with op byte `op` that ends before its operands are complete: "not a request" (R86, 93 I15), and what waits
  behind its last byte. -/
  | truncated (op : Byte) (rest : List WireByte)
  /-- A command byte whose payload is not all there (R124 "if the context ends before four bytes"). -/
  | cutFrame (b : Byte) (rest : List WireByte)
  /-- A data byte with no command byte before it. -/
  | strayData (b : Byte) (rest : List WireByte)
  /-- A command byte that is none of the eight (R89). -/
  | unknownCommand (b : Byte)
deriving DecidableEq, Repr

/-- The first `n` bytes, if all of them are bytes of a host request. -/
def takeReq : Nat → List WireByte → Option (List Byte × List WireByte)
  | 0, ws => some ([], ws)
  | n + 1, .req b :: ws => (takeReq n ws).map fun p => (b :: p.1, p.2)
  | _ + 1, _ => none

/-- The first `n` bytes, if all of them are data bytes of the bus. -/
def takeData : Nat → List WireByte → Option (List Byte × List WireByte)
  | 0, ws => some ([], ws)
  | n + 1, .data b :: ws => (takeData n ws).map fun p => (b :: p.1, p.2)
  | _ + 1, _ => none

/-- The leading data bytes: a pixel stream "runs until the next command byte" (R85). -/
def leadingData : List WireByte → List Byte × List WireByte
  | .data b :: ws => (b :: (leadingData ws).1, (leadingData ws).2)
  | ws => ([], ws)

/-- What waits behind the last request byte. -/
def afterRequest : List WireByte → List WireByte
  | .req _ :: ws => afterRequest ws
  | ws => ws

/-- A request cut short: every request byte that waits belongs to it (R86, 93 I15). -/
def cutRequest (op : Byte) (ws : List WireByte) : Decoded := .truncated op (afterRequest ws)

/-- The operands of SET_WINDOW (R87), in the order `x0, y0, x1, y1`. -/
def decodeSetWindow (ws : List WireByte) : Decoded :=
  match takeReq 8 ws with
  | some ([a, b, c, d, e, f, g, h], rest) => .instr (.setWindow (be16 a b) (be16 c d) (be16 e f) (be16 g h)) rest
  | _ => cutRequest 0x02 ws

/-- The operands of WRITE_PIXELS (R86, R87): `n` in 4 bytes, then `n` data bytes. -/
def decodeWritePixels (ws : List WireByte) : Decoded :=
  match takeReq 4 ws with
  | some ([a, b, c, d], ws') =>
    match takeReq (be32 a b c d).toNat ws' with
    | some (bytes, rest) => .instr (.writePixels bytes) rest
    | none => cutRequest 0x03 ws
  | _ => cutRequest 0x03 ws

/-- The operand of FILL (R87). -/
def decodeFill (ws : List WireByte) : Decoded :=
  match takeReq 2 ws with
  | some ([a, b], rest) => .instr (.fill (be16 a b)) rest
  | _ => cutRequest 0x05 ws

/-- The operands of CONVERT (R87). -/
def decodeConvert (ws : List WireByte) : Decoded :=
  match takeReq 3 ws with
  | some ([r, g, b], rest) => .instr (.convert r g b) rest
  | _ => cutRequest 0x06 ws

/-- The operand of DECODE_BMP (R87). -/
def decodeDecodeBmp (ws : List WireByte) : Decoded :=
  match takeReq 1 ws with
  | some ([h], rest) => .instr (.decodeBmp h) rest
  | _ => cutRequest 0x07 ws

/-- A host request (R86, R87): op byte `op`, the bytes after it `ws`. Any other op byte is reserved (R88). -/
def decodeRequest (op : Byte) (ws : List WireByte) : Decoded :=
  match op.toNat with
  | 0x01 => .instr .init ws
  | 0x02 => decodeSetWindow ws
  | 0x03 => decodeWritePixels ws
  | 0x04 => .instr .endWrite ws
  | 0x05 => decodeFill ws
  | 0x06 => decodeConvert ws
  | 0x07 => decodeDecodeBmp ws
  | _ => .reservedOp op ws

/-- The two u16 fields of a CASET or RASET payload (R75), handed to `k`. -/
def decodeWindowFrame (code : Byte) (k : Half → Half → Instr) (ws : List WireByte) : Decoded :=
  match takeData 4 ws with
  | some ([p0, p1, p2, p3], rest) => .instr (k (be16 p0 p1) (be16 p2 p3)) rest
  | _ => .cutFrame code ws

/-- The one payload byte of COLMOD or MADCTL (R74), handed to `k`. -/
def decodeByteFrame (code : Byte) (k : Byte → Instr) (ws : List WireByte) : Decoded :=
  match takeData 1 ws with
  | some ([v], rest) => .instr (k v) rest
  | _ => .cutFrame code ws

/-- A command frame of the bus view (R74, R85): command byte `code`, the bytes after it `ws`. -/
def decodeFrame (c : Config) (code : Byte) (ws : List WireByte) : Decoded :=
  if code = c.cmdSwreset then .instr .swreset ws
  else if code = c.cmdSlpout then .instr .slpout ws
  else if code = c.cmdColmod then decodeByteFrame code .colmod ws
  else if code = c.cmdMadctl then decodeByteFrame code .madctl ws
  else if code = c.cmdCaset then decodeWindowFrame code .caset ws
  else if code = c.cmdRaset then decodeWindowFrame code .raset ws
  else if code = c.cmdRamwr then .instr (.ramwr (leadingData ws).1) (leadingData ws).2
  else if code = c.cmdDispon then .instr .dispon ws
  else .unknownCommand code

/-- The decoder, total on any labelled bytes. The port or the command/data line tells what a byte is, never its value
(R85). -/
def decode (c : Config) : List WireByte → Decoded
  | [] => .idle
  | .req op :: ws => decodeRequest op ws
  | .cmd code :: ws => decodeFrame c code ws
  | .data b :: ws => .strayData b ws

/-- A host request's bytes on the request port. -/
def reqBytes (bs : List Byte) : List WireByte := bs.map .req

/-- A command byte and its payload on the bus view, `C(code) D(p0) …`. -/
def frameBytes (code : Byte) (payload : List Byte) : List WireByte := .cmd code :: payload.map .data

/-- The encoder (R74, R75, R86, R87): the bytes of an instruction on the port or line that carries it. -/
def encode (c : Config) : Instr → List WireByte
  | .init => reqBytes [0x01]
  | .setWindow x0 y0 x1 y1 => reqBytes (0x02 :: (be16Bytes x0 ++ be16Bytes y0 ++ be16Bytes x1 ++ be16Bytes y1))
  | .writePixels bytes => reqBytes (0x03 :: (be32Bytes (BitVec.ofNat 32 bytes.length) ++ bytes))
  | .endWrite => reqBytes [0x04]
  | .fill color => reqBytes (0x05 :: be16Bytes color)
  | .convert r g b => reqBytes [0x06, r, g, b]
  | .decodeBmp h => reqBytes [0x07, h]
  | .swreset => frameBytes c.cmdSwreset []
  | .slpout => frameBytes c.cmdSlpout []
  | .caset x0 x1 => frameBytes c.cmdCaset (windowPayload x0 x1)
  | .raset y0 y1 => frameBytes c.cmdRaset (windowPayload y0 y1)
  | .ramwr stream => frameBytes c.cmdRamwr stream
  | .colmod v => frameBytes c.cmdColmod [v]
  | .madctl v => frameBytes c.cmdMadctl [v]
  | .dispon => frameBytes c.cmdDispon []

/-- The payload length of a command code (R74). -/
def payloadLength (c : Config) (code : Byte) : Nat :=
  if code = c.cmdCaset ∨ code = c.cmdRaset then 4
  else if code = c.cmdColmod ∨ code = c.cmdMadctl then 1
  else 0

/-- The low `nbits / 8` bytes of a table word, the byte at bits 7..0 first. -/
def tableBytes (nbits w : Nat) : List Byte :=
  (List.range (nbits / 8)).map fun i => BitVec.ofNat 8 (w >>> (8 * i))

/-- A table word as a host request, followed by zero operand bytes (the longest operand list of fixed length has
eight). -/
def tableRequest (nbits w : Nat) : List WireByte := reqBytes (tableBytes nbits w ++ List.replicate 8 0)

/-- A table word as a command frame, followed by as many zero payload bytes as its code has. -/
def tableFrame (c : Config) (nbits w : Nat) : List WireByte :=
  match tableBytes nbits w with
  | [] => []
  | code :: bs => frameBytes code (bs ++ List.replicate (payloadLength c code - bs.length) 0)

/-- The labelled bytes a table word stands for: a host request where its first byte is an op byte of R87, a command
frame where it is one of the eight command codes (log 1: the code 0x01 is both, and reads as the request INIT). -/
def tableWire (c : Config) (nbits w : Nat) : List WireByte :=
  match decode c (tableRequest nbits w) with
  | .instr _ rest => (tableRequest nbits w).take ((tableRequest nbits w).length - rest.length)
  | _ =>
    match decode c (tableFrame c nbits w) with
    | .instr _ _ => tableFrame c nbits w
    | _ => tableRequest nbits w

/-- The instruction the decoder reads from a table word, at the default configuration. -/
def decodeTableWord (nbits w : Nat) : Option Instr :=
  match decode Config.default (tableWire Config.default nbits w) with
  | .instr i _ => some i
  | _ => none

end Sys2Proof
end

