-- ==== Sys2Proof/Machine/Memory.lean ====
section
/-! DEFINITION. Memory as a list of (address, byte) cells in one canonical form: addresses strictly rising. An unlisted
address holds no specified value (spec/10_state.md R30, R31, R37 "unspecified"), so a listed byte is never what an
unlisted address reads as, and writing always lists the byte. -/

namespace Sys2Proof.Machine

/-- The canonical form: addresses strictly rising. -/
def Memory.wf : List Host.Cell → Bool
  | [] => true
  | [_] => true
  | (a, _) :: (b, w) :: m => decide (a < b) && Memory.wf ((b, w) :: m)

/-- The byte at an address, or `none` where no specified value stands. -/
def memRead : List Host.Cell → Nat → Option Byte
  | [], _ => none
  | (b, v) :: m, a => if a = b then some v else memRead m a

/-- Write one byte, keeping the canonical form. -/
def memWrite : List Host.Cell → Nat → Byte → List Host.Cell
  | [], a, v => [(a, v)]
  | (b, w) :: m, a, v =>
    if a < b then (a, v) :: (b, w) :: m
    else if a = b then (a, v) :: m
    else (b, w) :: memWrite m a v

/-- Write a list of bytes at `a`, `a + 1`, …. -/
def memWriteBytes (m : List Host.Cell) (a : Nat) : List Byte → List Host.Cell
  | [] => m
  | v :: vs => memWriteBytes (memWrite m a v) (a + 1) vs

/-- Read `n` bytes from `a`; the first address with no specified value otherwise. -/
def memReadBytes (m : List Host.Cell) : Nat → Nat → Except Nat (List Byte)
  | _, 0 => .ok []
  | a, n + 1 =>
    match memRead m a with
    | none => .error a
    | some v =>
      match memReadBytes m (a + 1) n with
      | .ok vs => .ok (v :: vs)
      | .error e => .error e

/-- The address of the high byte of GRAM pixel `(x, y)`; the low byte is the next address. Coordinates are u16 (R52), so
the numbering is one to one and does not depend on the panel (DESIGN CHOICE, log 10). -/
def gramAddr (x y : Nat) : Nat := 2 * (65536 * y + x)

end Sys2Proof.Machine
end

