-- ==== Sys2Proof/Machine/Controller.lean ====
section
/-! DEFINITION. The reference controller model (spec/41_controller_commands.md): what the external display controller
does with a command byte, a data byte, a CS release and a reset pulse, and how GRAM is read by an observer. -/

namespace Sys2Proof.Machine

/-! ## GRAM as an observer reads it (R120) -/

/-- One byte of GRAM: the byte written there, or the free value of the draw in force (R37 "any value"). -/
def gramByte (s : State) (a : Nat) : Byte := (memRead s.gram a).getD (Config.freeGram s.gramEpoch a)

/-- `GRAM[y][x]` (R37, R53: high byte first). -/
def gramPixel (s : State) (x y : Nat) : Half := be16 (gramByte s (gramAddr x y)) (gramByte s (gramAddr x y + 1))

/-- Whether `(x, y)` is a cell of GRAM (R50, R52). -/
def inPanel (c : Config) (x y : Nat) : Bool := decide (x < c.panelW ∧ y < c.panelH)

/-- With sleep off and display on the panel shows GRAM (R129). -/
def panelShowsGram (s : State) : Bool := !s.ctl.sleep && s.ctl.disp

/-- `GRAM[y][x] <- p`, high byte at the lower address. -/
def gramWrite (m : List Host.Cell) (x y : Nat) (p : Half) : List Host.Cell :=
  memWrite (memWrite m (gramAddr x y) (hiByte p)) (gramAddr x y + 1) (loByte p)

/-! ## The window (R126) -/

/-- `ww`, the window width in pixels. -/
def windowWidth (c : Ctl) : Nat := c.xe.toNat - c.xs.toNat + 1

/-- `hh`, the window height in pixels. -/
def windowHeight (c : Ctl) : Nat := c.ye.toNat - c.ys.toNat + 1

/-- The number of pixels of the window. -/
def windowCount (c : Ctl) : Nat := windowWidth c * windowHeight c

/-- The column pixel `k` of a stream lands in (R79, R126). -/
def pixelX (c : Ctl) (k : Nat) : Nat := c.xs.toNat + k % windowWidth c

/-- The row pixel `k` of a stream lands in (R79, R126). -/
def pixelY (c : Ctl) (k : Nat) : Nat := c.ys.toNat + k / windowWidth c

/-- The window registers form a window (R126 "or when `ctl_xs > ctl_xe` or `ctl_ys > ctl_ye`"). -/
def windowFormed (c : Ctl) : Bool := decide (c.xs.toNat ≤ c.xe.toNat ∧ c.ys.toNat ≤ c.ye.toNat)

/-- The controller takes a pixel as two bytes (R127): a COLMOD payload equal to `COLMOD_VAL` has been received since its
last reset, and that value selects 16-bit color. -/
def sixteenBit (s : State) : Bool := s.ctl.colmodRecv && decide (s.ctl.colmod = s.cfg.colmodVal) && s.cfg.colmodIs16

/-- The pixel stream has the effect R126 describes. -/
def streamDefined (s : State) : Bool := sixteenBit s && windowFormed s.ctl

/-! ## Unspecified values -/

/-- One cell takes a free value, if it is a cell of the panel. -/
def freePixel (c : Config) (n : Nat) (x y : Nat) (m : List Host.Cell) : List Host.Cell :=
  if inPanel c x y then
    gramWrite m x y (be16 (Config.freeGram n (gramAddr x y)) (Config.freeGram n (gramAddr x y + 1)))
  else m

/-- Every GRAM cell inside the window becomes unspecified (R126 overrun, 93 I1). -/
def freeWindow (s : State) : State :=
  { s with
    gram := (List.range (windowCount s.ctl)).foldl
      (fun m k => freePixel s.cfg s.freeCtr (pixelX s.ctl k) (pixelY s.ctl k) m) s.gram
    freeCtr := s.freeCtr + 1 }

/-- Every GRAM cell becomes unspecified (R122, R240, 93 I3). -/
def freeGramAll (s : State) : State := { s with gram := [], gramEpoch := s.freeCtr, freeCtr := s.freeCtr + 1 }

/-- A stream whose effect R126 leaves unspecified (93 I7): the cells of the window if there is one (no cell outside a
window ever changes), else any cell. -/
def freeStreamEffect (s : State) : State := if windowFormed s.ctl then freeWindow s else freeGramAll s

/-- The four window registers become unspecified (R144, 93 I6). -/
def freeWindowRegs (s : State) : State :=
  { s with
    ctl := { s.ctl with
      xs := Config.freeHalf s.freeCtr 0
      xe := Config.freeHalf s.freeCtr 1
      ys := Config.freeHalf s.freeCtr 2
      ye := Config.freeHalf s.freeCtr 3 }
    freeCtr := s.freeCtr + 1 }

/-- `ctl_xs` and `ctl_xe` become unspecified (R124, 93 I6). -/
def freeColumns (s : State) : State :=
  { s with
    ctl := { s.ctl with xs := Config.freeHalf s.freeCtr 0, xe := Config.freeHalf s.freeCtr 1 }
    freeCtr := s.freeCtr + 1 }

/-- `ctl_ys` and `ctl_ye` become unspecified (R125, 93 I6). -/
def freeRows (s : State) : State :=
  { s with
    ctl := { s.ctl with ys := Config.freeHalf s.freeCtr 2, ye := Config.freeHalf s.freeCtr 3 }
    freeCtr := s.freeCtr + 1 }

/-- The controller after an InitError: every register and all of GRAM unspecified (R219, 93 I9). -/
def freeController (s : State) : State :=
  let n := s.freeCtr
  { s with
    ctl := {
      cmd := Config.freeOptByte n 0
      argi := Config.freeNat n 0
      arg0 := Config.freeByte n 0
      arg1 := Config.freeByte n 1
      arg2 := Config.freeByte n 2
      arg3 := Config.freeByte n 3
      xs := Config.freeHalf n 0
      xe := Config.freeHalf n 1
      ys := Config.freeHalf n 2
      ye := Config.freeHalf n 3
      madctl := Config.freeByte n 4
      colmod := Config.freeByte n 5
      colmodRecv := Config.freeBool n 0
      sleep := Config.freeBool n 1
      disp := Config.freeBool n 2
      wp := Config.freeNat n 1
      hi := Config.freeOptByte n 1 }
    gram := []
    gramEpoch := n
    freeCtr := n + 1 }

/-! ## What the controller does -/

/-- A software reset, or `Pin(RST, LOW)` (R122): the registers at their reset values, GRAM unspecified. -/
def ctlReset (s : State) : State :=
  { s with ctl := Ctl.afterReset s.freeCtr, gram := [], gramEpoch := s.freeCtr, freeCtr := s.freeCtr + 1 }

/-- The pixel stream is closed. With a half pixel waiting (R55, 93 I2, log 19) the cell it would land in takes any value; with
the window already full the stream is longer than the window (93 I1). No register changes (R121). -/
def ctlHalfPixel (s : State) : State :=
  if s.ctl.cmd = some s.cfg.cmdRamwr ∧ s.ctl.hi.isSome then
    if streamDefined s then
      if s.ctl.wp < windowCount s.ctl then
        { s with
          gram := freePixel s.cfg s.freeCtr (pixelX s.ctl s.ctl.wp) (pixelY s.ctl s.ctl.wp) s.gram
          freeCtr := s.freeCtr + 1 }
      else freeWindow s
    else freeStreamEffect s
  else s

/-- A window command whose payload never came whole leaves its registers unspecified (R124, R125). -/
def ctlCutShort (s : State) : State :=
  if s.ctl.argi < 4 then
    if s.ctl.cmd = some s.cfg.cmdCaset then freeColumns s
    else if s.ctl.cmd = some s.cfg.cmdRaset then freeRows s
    else s
  else s

/-- The end of a command context, at the next command byte: an incomplete window payload leaves its registers
unspecified (R124, R125); "a half pixel still in `ctl_hi` is discarded" (R131). DESIGN CHOICE (log 38): discarding it leaves
the cell it would have landed in at its old value, where 93 I2 allows any value. It shows for the controller by itself alone:
TFTCORE closes its stream first (R131), and `closeStream` frees that cell. -/
def ctlEndContext (s : State) : State :=
  let t := ctlCutShort s
  { t with ctl := { t.ctl with hi := none } }

/-- `ctl_cmd <- b` and `ctl_argi <- 0` (R121). -/
def ctlBegin (b : Byte) (s : State) : State := { s with ctl := { s.ctl with cmd := some b, argi := 0 } }

/-- The effect of a command byte itself: R122, R123, R126, R129; the others wait for their payload. -/
def ctlEffect (b : Byte) (s : State) : State :=
  if b = s.cfg.cmdSwreset then ctlReset s
  else if b = s.cfg.cmdSlpout then { s with ctl := { s.ctl with sleep := false } }
  else if b = s.cfg.cmdRamwr then { s with ctl := { s.ctl with wp := 0, hi := none } }
  else if b = s.cfg.cmdDispon then { s with ctl := { s.ctl with disp := true } }
  else s

/-- The controller receives `C(b)` (R121-R129, R131). -/
def ctlCommand (b : Byte) (s : State) : State := ctlEffect b (ctlBegin b (ctlEndContext s))

/-- `ctl_args[i] <- b`. -/
def putArg (i : Nat) (b : Byte) (c : Ctl) : Ctl :=
  match i with
  | 0 => { c with arg0 := b }
  | 1 => { c with arg1 := b }
  | 2 => { c with arg2 := b }
  | 3 => { c with arg3 := b }
  | _ => c

/-- A payload byte of a window command (R124): stored, counted, and on the fourth `done` sets the window registers. Later
bytes are ignored. -/
def ctlWindowByte (b : Byte) (done : Ctl → Ctl) (s : State) : State :=
  if s.ctl.argi < 4 then
    let c := { putArg s.ctl.argi b s.ctl with argi := s.ctl.argi + 1 }
    { s with ctl := if c.argi = 4 then done c else c }
  else s

/-- `ctl_xs` and `ctl_xe` from the payload (R124). -/
def setColumns (c : Ctl) : Ctl := { c with xs := be16 c.arg0 c.arg1, xe := be16 c.arg2 c.arg3 }

/-- `ctl_ys` and `ctl_ye` from the payload (R125). -/
def setRows (c : Ctl) : Ctl := { c with ys := be16 c.arg0 c.arg1, ye := be16 c.arg2 c.arg3 }

/-- The payload byte of COLMOD (R127). The spec gives no effect for a second byte: the register takes a free value
(log 21). -/
def ctlColmodByte (b : Byte) (s : State) : State :=
  if s.ctl.argi = 0 then { s with ctl := { s.ctl with colmod := b, colmodRecv := true, argi := 1 } }
  else
    { s with
      ctl := { s.ctl with colmod := Config.freeByte s.freeCtr 5, colmodRecv := false, argi := s.ctl.argi + 1 }
      freeCtr := s.freeCtr + 1 }

/-- The payload byte of MADCTL (R128). The spec gives no effect for a second byte: the register takes a free value
(log 21). -/
def ctlMadctlByte (b : Byte) (s : State) : State :=
  if s.ctl.argi = 0 then { s with ctl := { s.ctl with madctl := b, argi := 1 } }
  else
    { s with
      ctl := { s.ctl with madctl := Config.freeByte s.freeCtr 4, argi := s.ctl.argi + 1 }
      freeCtr := s.freeCtr + 1 }

/-- A whole pixel `p` of a stream with a defined effect (R126). -/
def ctlPixel (p : Half) (s : State) : Except Fault State :=
  if s.ctl.wp < windowCount s.ctl then
    if inPanel s.cfg (pixelX s.ctl s.ctl.wp) (pixelY s.ctl s.ctl.wp) then
      .ok { s with
        gram := gramWrite s.gram (pixelX s.ctl s.ctl.wp) (pixelY s.ctl s.ctl.wp) p
        ctl := { s.ctl with wp := s.ctl.wp + 1, hi := none } }
    else .error (.gramOutsidePanel (pixelX s.ctl s.ctl.wp) (pixelY s.ctl s.ctl.wp))
  else
    let t := freeWindow s
    .ok { t with ctl := { t.ctl with hi := none } }

/-- A byte of a pixel stream whose effect is unspecified (R126, R127, 93 I7): the pairing and the count are free too
(log 23). -/
def ctlUndefinedByte (s : State) : State :=
  let t := freeStreamEffect s
  { t with
    ctl := { t.ctl with wp := Config.freeNat t.freeCtr 1, hi := Config.freeOptByte t.freeCtr 1 }
    freeCtr := t.freeCtr + 1 }

/-- A byte of the pixel stream (R126): two bytes make a pixel, the high byte first. -/
def ctlStreamByte (b : Byte) (s : State) : Except Fault State :=
  if streamDefined s then
    match s.ctl.hi with
    | none => .ok { s with ctl := { s.ctl with hi := some b } }
    | some h => ctlPixel (be16 h b) s
  else .ok (ctlUndefinedByte s)

/-- The controller receives `D(b)` (R121-R128). In any other context the byte is ignored (R132). -/
def ctlData (b : Byte) (s : State) : Except Fault State :=
  if s.ctl.cmd = some s.cfg.cmdCaset then .ok (ctlWindowByte b setColumns s)
  else if s.ctl.cmd = some s.cfg.cmdRaset then .ok (ctlWindowByte b setRows s)
  else if s.ctl.cmd = some s.cfg.cmdRamwr then ctlStreamByte b s
  else if s.ctl.cmd = some s.cfg.cmdColmod then .ok (ctlColmodByte b s)
  else if s.ctl.cmd = some s.cfg.cmdMadctl then .ok (ctlMadctlByte b s)
  else .ok s

/-- The controller receives a list of data bytes. -/
def ctlDatas : List Byte → State → Except Fault State
  | [], s => .ok s
  | b :: bs, s =>
    match ctlData b s with
    | .ok t => ctlDatas bs t
    | .error f => .error f

/-- The controller receives a whole command frame: `C(code)` and its data bytes (R71, R72). -/
def ctlFrame (code : Byte) (payload : List Byte) (s : State) : Except Fault State :=
  ctlDatas payload (ctlCommand code s)

end Sys2Proof.Machine
end

