-- ==== Sys2Proof/Machine/Operands.lean ====
section
/-! DEFINITION. Operand and field assembly (spec/30_encoding.md R78-R84): the packed color's fields, the bitmap header's
fields, the row size and row offset, the clip. All arithmetic on sizes and offsets is on naturals (00_scope.md R9). -/

namespace Sys2Proof.Machine

/-- `c >> 3`, the top five bits of a channel (R84, R170). -/
def topFive (c : Byte) : BitVec 5 := c.extractLsb' 3 5

/-- `c >> 2`, the top six bits of a channel (R84, R170). -/
def topSix (c : Byte) : BitVec 6 := c.extractLsb' 2 6

/-- `(hi5 << 11) | (mid6 << 5) | lo5` (R78, R170). -/
def pack565 (hi5 : BitVec 5) (mid6 : BitVec 6) (lo5 : BitVec 5) : Half := (hi5 ++ mid6) ++ lo5

/-- `p[15:11]` of a packed color (R78, R172). -/
def fieldHigh (p : Half) : BitVec 5 := p.extractLsb' 11 5

/-- `p[10:5]` of a packed color (R78, R172). -/
def fieldMid (p : Half) : BitVec 6 := p.extractLsb' 5 6

/-- `p[4:0]` of a packed color (R78, R172). -/
def fieldLow (p : Half) : BitVec 5 := p.extractLsb' 0 5

/-- `row_size = ((width*3 + 3) / 4) * 4` (R55, R82). -/
def rowSize (width : Nat) : Nat := (width * 3 + 3) / 4 * 4

/-- The offset of output row `r` in the source (R59, R188): rows are stored bottom to top. -/
def rowOffset (c : Config) (srcH rowBytes r : Nat) : Nat := c.headerSize + (srcH - 1 - r) * rowBytes

/-- `min(source, panel)` (R186). -/
def clip (source panel : Nat) : Nat := min source panel

/-- The number of bytes of a buffer (R30, R31, R50). -/
def bufferSize (c : Config) : Buffer → Nat
  | .hdr => c.headerSize
  | .inbuf => 3 * c.panelW
  | .outbuf => 2 * c.panelW

/-- The fill pattern (R53, R148): stream byte `j` is `color[15:8]` for even `j`, `color[7:0]` for odd `j`. -/
def fillByte (color : Half) (j : Nat) : Byte := if j % 2 = 0 then hiByte color else loByte color

/-- One chunk of a fill, `m` bytes from stream byte `sent` on (R148). -/
def fillChunkBytes (color : Half) (sent m : Nat) : List Byte := (List.range m).map fun i => fillByte color (sent + i)

/-- The bytes of a whole fill of the panel: `PANEL_W * PANEL_H * 2` of them (R148). -/
def fillTotal (c : Config) : Nat := c.panelW * c.panelH * 2

end Sys2Proof.Machine
end

