-- ==== Sys2Proof/Machine/Ops.lean ====
section
/-! DEFINITION. The named operations every host operation is built from: the ports and their answers (spec/00_scope.md
R11, R12), the framing primitives (40_framing.md R100-R110), the internal buffers and decoder registers (10_state.md
R29-R31), and the end of an operation: the abort sequence (60_exceptions.md R216) and the normal return. -/

namespace Sys2Proof.Machine

/-- How an operation stops early: `raise E(info)` (R13), or a fault of the model. -/
inductive Stop where
  | raise (code : StCode) (reason : Option Reason) (detail : Detail)
  | fault (f : Fault)
deriving DecidableEq, Repr

/-- A part of an operation: it reads and writes the state and may stop early. The state reached is kept when it raises:
"every effect of those events stays in place" (R216). -/
abbrev Op (α : Type) : Type := EStateM Stop State α

/-- `raise E(info)` (R13). -/
def raise {α : Type} (code : StCode) (reason : Option Reason) (detail : Detail) : Op α :=
  fun s => .error (.raise code reason detail) s

/-- Stop with a fault of the model. -/
def faultWith {α : Type} (f : Fault) : Op α := fun s => .error (.fault f) s

/-- An update that cannot fail. -/
def update (f : State → State) : Op Unit := fun s => .ok () (f s)

/-- Read something of the state. -/
def look {α : Type} (f : State → α) : Op α := fun s => .ok (f s) s

/-! ## Control lines (R100, R111) -/

/-- `Pin(CS, CS_ACTIVE)`. -/
def selectBus (s : State) : State := { s with trace := .pinCs s.cfg.csActive :: s.trace, busSel := true }

/-- `Pin(CS, CS_INACTIVE)`. The release "does not change the controller state" (R121 `DESEL`). -/
def releaseBus (s : State) : State :=
  { s with trace := .pinCs s.cfg.csActive.opposite :: s.trace, busSel := false }

/-- `Pin(DC, DC_CMD)`. -/
def driveCmd (s : State) : State := { s with trace := .pinDc s.cfg.dcCmd :: s.trace, dc := .cmd }

/-- `Pin(DC, DC_DATA)`. -/
def driveData (s : State) : State := { s with trace := .pinDc s.cfg.dcCmd.opposite :: s.trace, dc := .data }

/-- `Pin(RST, lvl)`; a low level resets the controller (R58, R122). -/
def driveRst (lvl : Level) (s : State) : State :=
  let t := { s with trace := .pinRst lvl :: s.trace, rstLvl := lvl }
  match lvl with
  | .low => ctlReset t
  | .high => t

/-- `Wait(t)` (R110). Its duration is no part of the event (R248). -/
def waitFor (t : Delay) (s : State) : State := { s with trace := .wait t :: s.trace }

/-- `seq <- step` (R10). -/
def setSeq (q : Seq) (s : State) : State := { s with seq := q }

/-! ## Ports with an answer (R8, R12): the next input, or a free value past the end of the inputs -/

/-- `BusClaim()`. -/
def busClaim : Op Bool := fun s =>
  match s.claimIn with
  | a :: rest => .ok a { s with claimIn := rest, trace := .busClaim a :: s.trace }
  | [] =>
    .ok (Config.freeBool s.freeCtr 0)
      { s with freeCtr := s.freeCtr + 1, trace := .busClaim (Config.freeBool s.freeCtr 0) :: s.trace }

/-- An event is appended to the trace (R40). -/
def record (e : Event) (s : State) : State := { s with trace := e :: s.trace }

/-- The answer to the next byte transfer (R8, R12). -/
def nextTx (s : State) : TxAns :=
  match s.txIn with
  | a :: _ => a
  | [] => Config.freeTx s.freeCtr

/-- The state once that answer is taken. -/
def afterTx (s : State) : State :=
  match s.txIn with
  | _ :: rest => { s with txIn := rest }
  | [] => { s with freeCtr := s.freeCtr + 1 }

/-- A byte that reaches the controller, labelled by the command/data line (R40, R121). Before the line is first driven
its level is any value (R24, 93 I11). -/
def deliver (b : Byte) (s : State) : Except Fault State :=
  match s.dc with
  | .cmd => .ok (ctlCommand b s)
  | .data => ctlData b s
  | .unknown =>
    let t := { s with freeCtr := s.freeCtr + 1 }
    if Config.freeBool s.freeCtr 0 then .ok (ctlCommand b t) else ctlData b t

/-- A transfer recorded with its answer and, if the byte was received, delivered. -/
def transfer (b : Byte) (answeredOk received : Bool) : Op Bool := fun s =>
  if received then
    match deliver b (record (.tx b answeredOk) s) with
    | .ok t => .ok answeredOk t
    | .error f => .error (.fault f) (record (.tx b answeredOk) s)
  else .ok answeredOk (record (.tx b answeredOk) s)

/-- `Tx(b)`: one byte on the bus (R12). Answered `fail`, the byte may or may not have been received (R130). -/
def tx (b : Byte) : Op Bool := fun s => transfer b (nextTx s).isOk (nextTx s).isReceived (afterTx s)

/-- `SrcOpen(h)`. -/
def srcOpen (h : Byte) : Op Bool := fun s =>
  match s.openIn with
  | a :: rest => .ok a { s with openIn := rest, trace := .srcOpen h a :: s.trace }
  | [] =>
    .ok (Config.freeBool s.freeCtr 0)
      { s with freeCtr := s.freeCtr + 1, trace := .srcOpen h (Config.freeBool s.freeCtr 0) :: s.trace }

/-- An answer as `MemRead(SRC, off, n)` returns it (R11): exactly `n` bytes, fewer than `n`, or a failure. -/
def readAnswer (n : Nat) : SrcAns → ReadAns
  | .fail => .fail
  | .data bs => if n ≤ bs.length then .ok (bs.take n) else .short bs

/-- `MemRead(SRC, off, n)`, emitted as `SrcRead(off, n)` (R11). -/
def srcRead (off n : Nat) : Op ReadAns := fun s =>
  match s.readIn with
  | a :: rest => .ok (readAnswer n a) { s with readIn := rest, trace := .srcRead off n (readAnswer n a) :: s.trace }
  | [] =>
    .ok (readAnswer n (Config.freeRead s.freeCtr))
      { s with
        freeCtr := s.freeCtr + 1
        trace := .srcRead off n (readAnswer n (Config.freeRead s.freeCtr)) :: s.trace }

/-- `SrcClose()` and `dec_src_open <- false`, if a source is open (R181, R216). -/
def closeSource (s : State) : State :=
  if s.decSrcOpen then { s with trace := .srcClose :: s.trace, decSrcOpen := false } else s

/-- `Sample(CANCEL)` (R12): it emits no event. -/
def sampleCancel : Op Bool := fun s =>
  match s.cancelIn with
  | a :: rest => .ok a { s with cancelIn := rest }
  | [] => .ok (Config.freeBool s.freeCtr 0) { s with freeCtr := s.freeCtr + 1 }

/-! ## Framing primitives (R102-R110) -/

/-- "A primitive that opens a frame requires `bus_sel = false` on entry" (R101). -/
def requireIdleBus : Op Unit := fun s => if s.busSel then .error (.fault .frameOpen) s else .ok () s

/-- `raise TransferError({frame, cmd, byte_index})`. -/
def raiseTransfer {α : Type} (frame : FrameKind) (cmd : Option Byte) (byteIndex : Nat) : Op α :=
  raise .transferError (some .transfer) (.transfer ⟨frame, cmd, byteIndex⟩)

/-- CMD_FRAME `c` (R102). -/
def cmdFrame (c : Byte) : Op Unit := do
  requireIdleBus
  update driveCmd
  update selectBus
  let ok ← tx c
  update releaseBus
  if ok then pure () else raiseTransfer .cmd (some c) 0

/-- The bytes of a frame or stream from byte `i` on; at the first failing byte the frame is closed and the error raised
(R103, R106, R109). -/
def sendBytes (frame : FrameKind) (close : State → State) : Nat → List Byte → Op Unit
  | _, [] => pure ()
  | i, b :: bs => do
    let ok ← tx b
    if ok then sendBytes frame close (i + 1) bs
    else do
      update close
      raiseTransfer frame none i

/-- DATA_FRAME `bs` (R103). -/
def dataFrame (bs : List Byte) : Op Unit := do
  requireIdleBus
  if bs.isEmpty then faultWith .emptyFrame
  else do
    update driveData
    update selectBus
    sendBytes .data releaseBus 0 bs
    update releaseBus

/-- CMD_WITH_PAYLOAD `c, bs` (R104). -/
def cmdWithPayload (c : Byte) (bs : List Byte) : Op Unit := do
  cmdFrame c
  if bs.isEmpty then pure () else dataFrame bs

/-- OPEN_STREAM (R105): CS stays active. -/
def openStream : Op Unit := do
  requireIdleBus
  let c ← look fun s => s.cfg.cmdRamwr
  update driveCmd
  update selectBus
  let ok ← tx c
  if ok then do
    update driveData
    update fun s => { s with streamOpen := true }
  else do
    update releaseBus
    raiseTransfer .cmd (some c) 0

/-- CLOSE_STREAM (R107). A half pixel at the stream's end leaves its cell unspecified (R55, 93 I2). -/
def closeStream (s : State) : State :=
  if s.streamOpen then { ctlHalfPixel (releaseBus s) with streamOpen := false } else s

/-- APPEND `bs` (R106). -/
def append (bs : List Byte) : Op Unit := do
  let isOpen ← look fun s => s.streamOpen
  if isOpen then sendBytes .stream closeStream 0 bs else faultWith .streamClosed

/-- RESET_PULSE (R108). -/
def resetPulse (s : State) : State :=
  waitFor .rstHigh (driveRst .high (waitFor .rstLow (driveRst .low s)))

/-! ## Decoder registers and buffers (R29-R31) -/

/-- Write a decoder register and mark it written. -/
def writeDec (r : DecReg) (f : State → State) (s : State) : State :=
  { f s with decWritten := r :: s.decWritten }

/-- Read a decoder register; one the running DECODE_BMP has not written is a fault (R29, 93 I14). -/
def readDec {α : Type} (r : DecReg) (f : State → α) : Op α := fun s =>
  if r ∈ s.decWritten then .ok (f s) s else .error (.fault (.unwrittenDecoder r)) s

/-- The cells of a buffer. -/
def bufferCells (s : State) : Buffer → List Host.Cell
  | .hdr => s.hdr
  | .inbuf => s.inbuf
  | .outbuf => s.outbuf

/-- How many leading bytes of a buffer the running DECODE_BMP has written. -/
def bufferWritten (s : State) : Buffer → Nat
  | .hdr => s.hdrWritten
  | .inbuf => s.inbufWritten
  | .outbuf => s.outbufWritten

/-- A state with a buffer's cells replaced, and with the count of its bytes written. -/
def setBuffer (b : Buffer) (m : List Host.Cell) (n : Nat) (s : State) : State :=
  match b with
  | .hdr => { s with hdr := m, hdrWritten := n }
  | .inbuf => { s with inbuf := m, inbufWritten := n }
  | .outbuf => { s with outbuf := m, outbufWritten := n }

/-- The count after `len` bytes are written at `i`. A write that leaves a gap, which no rule makes, does not raise it. -/
def writtenAfter (n i len : Nat) : Nat := if i ≤ n then max n (i + len) else n

/-- `MemWrite(buffer, i, n, bytes)` (R11); no index lies beyond the buffer's size (R50). -/
def writeBuffer (b : Buffer) (i : Nat) (bytes : List Byte) : Op Unit := fun s =>
  if i + bytes.length ≤ bufferSize s.cfg b then
    .ok () (setBuffer b (memWriteBytes (bufferCells s b) i bytes) (writtenAfter (bufferWritten s b) i bytes.length) s)
  else .error (.fault (.bufferRange b (i + bytes.length))) s

/-- `MemRead(buffer, i, n)` (R11); a byte that the running DECODE_BMP has not written is a fault, even where the buffer still
holds one of an earlier image (R30, R31, 93 I14). -/
def readBuffer (b : Buffer) (i n : Nat) : Op (List Byte) := fun s =>
  if i + n ≤ max i (bufferWritten s b) then
    match memReadBytes (bufferCells s b) i n with
    | .ok bytes => .ok bytes s
    | .error a => .error (.fault (.unwrittenBuffer b a)) s
  else .error (.fault (.unwrittenBuffer b (max i (bufferWritten s b)))) s

/-- One byte of a buffer, `buffer[i]` (R10). -/
def readBufferByte (b : Buffer) (i : Nat) : Op Byte := fun s =>
  if i < bufferWritten s b then
    match memRead (bufferCells s b) i with
    | some v => .ok v s
    | none => .error (.fault (.unwrittenBuffer b i)) s
  else .error (.fault (.unwrittenBuffer b i)) s

/-- The start of a DECODE_BMP: nothing is written "in the same operation" yet (R29-R31, 93 I14, logs 8 and 9). The registers
and buffers keep what they hold: only the step that writes one changes it (R30). -/
def startDecode (s : State) : State :=
  { s with decWritten := [], hdrWritten := 0, inbufWritten := 0, outbufWritten := 0 }

/-! ## The end of an operation: abort (R216) and return (R13) -/

/-- `return OK` (R13, R33): the status, the response and the sequencer at the end of an operation. -/
def returnOk (res : Option Half) (s : State) : State :=
  { s with stCode := .ok, stInfo := StInfo.empty, result := res, seq := .idle }

/-- The response (R39, R86): the status, and "the `u16` result big-endian" where there is one. -/
def State.response (s : State) : Response := ⟨s.stCode, s.stInfo, (s.result.map be16Bytes).getD []⟩

/-- The status of an IllegalStateError or IllegalOpError: nothing changes but the status (R88, R214). -/
def reportStatus (info : StInfo) (code : StCode) (s : State) : State :=
  { s with stCode := code, stInfo := info, result := none }

/-- The abort sequence (R13, R216): the one way an operation ends in an error. The stream and the source are closed, the
status is written, the sequencer goes to IDLE. IllegalStateError and IllegalOpError alone change nothing but the status
(R88, R214; log 12). -/
def takeAbort (info : StInfo) (code : StCode) (s : State) : State :=
  if code.statusOnly then reportStatus info code s
  else
    let t := closeSource (closeStream s)
    { t with stCode := code, stInfo := info, result := none, seq := .idle }

/-- Run a host operation to its end (R7, R13): its name and source handle go into the diagnostic record (R211). -/
def runOperation (op : OpName) (source : Option Byte) (body : Op (Option Half)) (s : State) :
    Host.Outcome State Fault Refusal :=
  match body s with
  | .ok res t => .next (returnOk res t)
  | .error (.raise code reason detail) t => .next (takeAbort ⟨some op, source, reason, detail⟩ code t)
  | .error (.fault f) _ => .fault f

/-- A request refused at its decoding, a reserved op byte (R88) or one cut short (93 I15): IllegalOpError, no event, no other
change. The record names the op byte (log 14). -/
def illegalOperation (op : Byte) (s : State) : State :=
  takeAbort ⟨some (.opByte op), none, none, .none⟩ .illegalOpError s

/-- `raise IllegalStateError({op, drv_state})` (R140): `drv_state` travels in the record. -/
def raiseIllegalState {α : Type} : Op α := fun s =>
  .error (.raise .illegalStateError (some .state) (.drvState s.drvState)) s

/-- The legality check before a pixel operation (R22, R140). -/
def requireReady : Op Unit := fun s => if pixelLegal s.drvState then .ok () s else raiseIllegalState s

/-! ## Block reset (R240) -/

/-- The construction of a new instance with configuration `c` beside the same controller (R240): every TFTCORE register at
its reset value, an empty trace; the controller's registers are not reset (R41 "not on block reset") and GRAM becomes any
value (93 I3). The inputs stay (log 16). -/
def blockReset (c : Config) (s : State) : State :=
  let t := freeGramAll s
  { State.resetWith c with
    ctl := t.ctl
    gram := t.gram
    gramEpoch := t.gramEpoch
    input := t.input
    claimIn := t.claimIn
    txIn := t.txIn
    openIn := t.openIn
    readIn := t.readIn
    cancelIn := t.cancelIn
    freeCtr := t.freeCtr }

end Sys2Proof.Machine
end

