-- ==== Sys2Proof/Machine/Codec.lean ====
section
/-! DEFINITION. The Pixel Codec (spec/43_pixel_codec.md): CONVERT. -/

namespace Sys2Proof.Machine

/-- CONVERT as a function of the channels and `SWAP_RB` (R78, R170): truncation to 5, 6 and 5 bits, blue in the high
field with the swap and red without it. -/
def convertPixel (swapRb : Bool) (r g b : Byte) : Half :=
  if swapRb then pack565 (topFive b) (topSix g) (topFive r) else pack565 (topFive r) (topSix g) (topFive b)

/-- CONVERT (R170): legal in every `drv_state`, no port event. -/
def convertBody (r g b : Byte) : Op (Option Half) := do
  let p ← look fun s => convertPixel s.cfg.swapRb r g b
  pure (some p)

/-- CONVERT (R170). -/
def execConvert (r g b : Byte) (s : State) : Host.Outcome State Fault Refusal :=
  runOperation .convert none (convertBody r g b) s

end Sys2Proof.Machine
end

