-- ==== Sys2Proof/Machine/Driver.lean ====
section
/-! DEFINITION. The Display Controller Driver's operations (spec/42_driver_ops.md): INIT, SET_WINDOW, WRITE_PIXELS,
END_WRITE and FILL. -/

namespace Sys2Proof.Machine

/-! ## INIT (R141) -/

/-- The diagnostic of an INIT step that failed in a transfer (R141, R215). -/
def initStepDetail (step : Nat) : Detail → Detail
  | .transfer t => .initStep step (some t)
  | _ => .initStep step none

/-- `drv_state <- Failed`, with the controller left unspecified (R141, R219, 93 I9). -/
def initFailed (s : State) : State := freeController { s with drvState := .failed }

/-- A step of INIT: a TransferError raised in it becomes `InitError({step, cause: TRANSFER, transfer})` (R141, R215). -/
def initStep (step : Nat) (q : Seq) (body : Op Unit) : Op Unit := fun s =>
  match body (setSeq q s) with
  | .ok u t => .ok u t
  | .error (.raise .transferError reason detail) t =>
    .error (.raise .initError reason (initStepDetail step detail)) (initFailed t)
  | .error e t => .error e t

/-- The bus claim of INIT (R141, 92 D14). -/
def initClaim : Op Unit := do
  update (setSeq .initClaim)
  let ok ← busClaim
  if ok then pure ()
  else do
    update initFailed
    raise .initError (some .busClaim) (.initStep 0 none)

/-- INIT step 1: the reset pulse, "skipped entirely" where no reset line is wired (R28, R108, R141). -/
def initPulse (s : State) : State := if s.cfg.hasRst then resetPulse (setSeq .initS1 s) else s

/-- CMD_FRAME or CMD_WITH_PAYLOAD, then the settle delay (R110, R141). -/
def commandThenSettle (code : Config → Byte) (payload : Config → List Byte) (t : Delay) : Op Unit := do
  let c ← look fun s => code s.cfg
  let bs ← look fun s => payload s.cfg
  cmdWithPayload c bs
  update (waitFor t)

/-- INIT steps 2 to 6 (R141). -/
def initSequence : Op Unit := do
  initStep 2 .initS2 (commandThenSettle Config.cmdSwreset (fun _ => []) .swreset)
  update fun s => { s with drvState := .initializing }
  initStep 3 .initS3 (commandThenSettle Config.cmdSlpout (fun _ => []) .slpout)
  initStep 4 .initS4 (commandThenSettle Config.cmdColmod (fun c => [c.colmodVal]) .colmod)
  initStep 5 .initS5 (commandThenSettle Config.cmdMadctl (fun c => [c.madctlVal]) .madctl)
  initStep 6 .initS6 (commandThenSettle Config.cmdDispon (fun _ => []) .dispon)

/-- The legality check of INIT (R22, R141). -/
def requireInitLegal : Op Unit := fun s => if initLegal s.drvState then .ok () s else raiseIllegalState s

/-- INIT (R141). -/
def initBody : Op (Option Half) := do
  requireInitLegal
  update closeStream
  initClaim
  update fun s => { s with drvState := .resetting }
  update initPulse
  initSequence
  update fun s => { s with drvState := .ready }
  pure none

/-- INIT (R141). -/
def execInit (s : State) : Host.Outcome State Fault Refusal := runOperation .init none initBody s

/-! ## SET_WINDOW (R143) -/

/-- The frames of SET_WINDOW: CASET and RASET with their payloads, then the memory-write command (R143). -/
def windowFrames (x0 y0 x1 y1 : Half) : Op Unit := do
  let ca ← look fun s => s.cfg.cmdCaset
  let ra ← look fun s => s.cfg.cmdRaset
  cmdWithPayload ca (windowPayload x0 x1)
  cmdWithPayload ra (windowPayload y0 y1)
  openStream

/-- "SET_WINDOW body (rule R143 without its checks)" (R148, R181). A transfer failure in it leaves the window registers
unspecified (R144, log 17). -/
def windowBody (x0 y0 x1 y1 : Half) : Op Unit := fun s =>
  match windowFrames x0 y0 x1 y1 (closeStream s) with
  | .ok u t => .ok u t
  | .error (.raise code reason detail) t => .error (.raise code reason detail) (freeWindowRegs t)
  | .error (.fault f) t => .error (.fault f) t

/-- The argument check of SET_WINDOW (R143). -/
def requireWindow (x0 y0 x1 y1 : Half) : Op Unit := fun s =>
  if windowInRange s.cfg x0 y0 x1 y1 then .ok () s
  else .error (.raise .windowRangeError none (.window x0 y0 x1 y1)) s

/-- SET_WINDOW (R143). -/
def setWindowBody (x0 y0 x1 y1 : Half) : Op (Option Half) := do
  requireReady
  requireWindow x0 y0 x1 y1
  windowBody x0 y0 x1 y1
  pure none

/-- SET_WINDOW (R143). -/
def execSetWindow (x0 y0 x1 y1 : Half) (s : State) : Host.Outcome State Fault Refusal :=
  runOperation .setWindow none (setWindowBody x0 y0 x1 y1) s

/-! ## WRITE_PIXELS (R145) and END_WRITE (R147) -/

/-- "WRITE_PIXELS needs an open stream" (R22, R145). -/
def requireStream : Op Unit := fun s =>
  if s.streamOpen then .ok () s else .error (.raise .illegalStateError (some .noOpenWindow) .none) s

/-- WRITE_PIXELS (R145). -/
def writePixelsBody (bytes : List Byte) : Op (Option Half) := do
  requireReady
  requireStream
  append bytes
  pure none

/-- WRITE_PIXELS (R145). -/
def execWritePixels (bytes : List Byte) (s : State) : Host.Outcome State Fault Refusal :=
  runOperation .writePixels none (writePixelsBody bytes) s

/-- END_WRITE (R147). -/
def endWriteBody : Op (Option Half) := do
  requireReady
  update closeStream
  pure none

/-- END_WRITE (R147). -/
def execEndWrite (s : State) : Host.Outcome State Fault Refusal := runOperation .endWrite none endWriteBody s

/-! ## FILL (R148) -/

/-- The chunk loop of FILL (R148), `sent` bytes sent so far. Every round of a legal configuration sends at least one
byte, so `fuel = total` rounds are enough. -/
def fillLoop (color : Half) (total : Nat) : Nat → Nat → Op Unit
  | 0, sent => if sent < total then faultWith .fillChunkZero else pure ()
  | fuel + 1, sent =>
    if sent < total then do
      update (setSeq (.fillData sent))
      let m ← look fun s => min s.cfg.fillChunk (total - sent)
      append (fillChunkBytes color sent m)
      fillLoop color total fuel (sent + m)
    else pure ()

/-- FILL (R148). -/
def fillBody (color : Half) : Op (Option Half) := do
  requireReady
  update (setSeq .fillWin)
  let w ← look fun s => s.cfg.panelW
  let h ← look fun s => s.cfg.panelH
  windowBody 0 0 (BitVec.ofNat 16 (w - 1)) (BitVec.ofNat 16 (h - 1))
  let total ← look fun s => fillTotal s.cfg
  fillLoop color total total 0
  update (setSeq .fillClose)
  update closeStream
  pure none

/-- FILL (R148). -/
def execFill (color : Half) (s : State) : Host.Outcome State Fault Refusal :=
  runOperation .fill none (fillBody color) s

end Sys2Proof.Machine
end

