-- ==== Sys2Proof/Machine/Bitmap.lean ====
section
/-! DEFINITION. The Bitmap Decoder (spec/44_bitmap_decoder.md): DECODE_BMP and its steps R182-R192. -/

namespace Sys2Proof.Machine

/-- READ_HEADER (R182). -/
def readHeader : Op Unit := do
  let n ← look fun s => s.cfg.headerSize
  let ans ← srcRead 0 n
  match ans with
  | .fail => raise .sourceReadError none (.sourceRead none 0 n)
  | .short bs => raise .formatError (some .shortHeader) (.headerLength bs.length)
  | .ok bs => writeBuffer .hdr 0 bs

/-- CHECK_SIGNATURE (R184): `HDR[0] = 0x42` and `HDR[1] = 0x4D`, compared as two bytes (R81). -/
def checkSignature : Op Unit := do
  let b0 ← readBufferByte .hdr 0
  let b1 ← readBufferByte .hdr 1
  if b0 ≠ 0x42 ∨ b1 ≠ 0x4D then raise .formatError (some .badSignature) (.signature b0 b1) else pure ()

/-- A little-endian u32 of the header (R80, R84). -/
def headerWord (off : Nat) : Op Word := do
  let b0 ← readBufferByte .hdr off
  let b1 ← readBufferByte .hdr (off + 1)
  let b2 ← readBufferByte .hdr (off + 2)
  let b3 ← readBufferByte .hdr (off + 3)
  pure (le32 b0 b1 b2 b3)

/-- A little-endian u16 of the header (R80, R84). -/
def headerHalf (off : Nat) : Op Half := do
  let b0 ← readBufferByte .hdr off
  let b1 ← readBufferByte .hdr (off + 1)
  pure (le16 b0 b1)

/-- EXTRACT_FIELDS (R183). -/
def extractFields : Op Unit := do
  let w ← headerWord 18
  update (writeDec .srcW fun s => { s with decSrcW := w })
  let h ← headerWord 22
  update (writeDec .srcH fun s => { s with decSrcH := h })
  let bpp ← headerHalf 28
  update (writeDec .bpp fun s => { s with decBpp := bpp })

/-- CHECK_DEPTH (R185). -/
def checkDepth : Op Unit := do
  let bpp ← readDec .bpp fun s => s.decBpp
  if bpp ≠ 24 then raise .unsupportedFormatError (some .bitDepth) (.depth bpp) else pure ()

/-- CLIP (R186). -/
def clipImage : Op Unit := do
  let w ← readDec .srcW fun s => s.decSrcW
  let h ← readDec .srcH fun s => s.decSrcH
  update (writeDec .w fun s => { s with decW := clip w.toNat s.cfg.panelW })
  update (writeDec .h fun s => { s with decH := clip h.toNat s.cfg.panelH })

/-- CHECK_SIZE (R187). -/
def checkSize : Op Unit := do
  let w ← readDec .w fun s => s.decW
  let h ← readDec .h fun s => s.decH
  let sw ← readDec .srcW fun s => s.decSrcW
  let sh ← readDec .srcH fun s => s.decSrcH
  if w = 0 ∨ h = 0 then raise .formatError (some .zeroSize) (.size sw sh) else pure ()

/-- `dec_row_size <- ((dec_src_w * 3 + 3) / 4) * 4` (R181). -/
def setRowSize : Op Unit := do
  let w ← readDec .srcW fun s => s.decSrcW
  update (writeDec .rowSize fun s => { s with decRowSize := rowSize w.toNat })

/-- READ_ROW `r` (R188): one positioned read of the whole stored row, of which the first `3 * dec_w` bytes are kept. -/
def readRow (r : Nat) : Op Unit := do
  let srcH ← readDec .srcH fun s => s.decSrcH
  let size ← readDec .rowSize fun s => s.decRowSize
  let w ← readDec .w fun s => s.decW
  let off ← look fun s => rowOffset s.cfg srcH.toNat size r
  let ans ← srcRead off size
  match ans with
  | .ok bs => writeBuffer .inbuf 0 (bs.take (3 * w))
  | .short _ => raise .sourceReadError none (.sourceRead (some r) off size)
  | .fail => raise .sourceReadError none (.sourceRead (some r) off size)

/-- One pixel of CONVERT_ROW (R189): the stored order is blue, green, red. -/
def convertPixelAt (i : Nat) : Op Unit := do
  let bl ← readBufferByte .inbuf (3 * i)
  let gr ← readBufferByte .inbuf (3 * i + 1)
  let rd ← readBufferByte .inbuf (3 * i + 2)
  let swap ← look fun s => s.cfg.swapRb
  writeBuffer .outbuf (2 * i) (be16Bytes (convertPixel swap rd gr bl))

/-- CONVERT_ROW (R189), pixels `i`, `i + 1`, …, the given number of them. -/
def convertPixels : Nat → Nat → Op Unit
  | 0, _ => pure ()
  | n + 1, i => do
    convertPixelAt i
    convertPixels n (i + 1)

/-- CONVERT_ROW (R189). -/
def convertRow : Op Unit := do
  let w ← readDec .w fun s => s.decW
  convertPixels w 0

/-- HAND_OFF (R190). -/
def handOff : Op Unit := do
  let w ← readDec .w fun s => s.decW
  let bytes ← readBuffer .outbuf 0 (2 * w)
  append bytes

/-- CANCEL_POINT `r` (R192). -/
def cancelPoint (r : Nat) : Op Unit := do
  let stop ← sampleCancel
  if stop then raise .cancelled none (.rowsWritten (r + 1)) else pure ()

/-- One output row (R181): read, convert, hand off. -/
def doRow (r : Nat) : Op Unit := do
  update (setSeq (.bmpRow r))
  update (writeDec .row fun s => { s with decRow := r })
  readRow r
  convertRow
  handOff

/-- The row loop of R181: the given number of rows from row `r` on, with a cancel point after every row but the last. -/
def rowLoop : Nat → Nat → Op Unit
  | 0, _ => pure ()
  | 1, r => doRow r
  | n + 2, r => do
    doRow r
    cancelPoint r
    rowLoop (n + 1) (r + 1)

/-- The checks of R181 before the window: header, signature, fields, depth, clip, size, row size. -/
def checkImage : Op Unit := do
  update (setSeq .bmpHdr)
  readHeader
  update (setSeq .bmpCheck)
  checkSignature
  extractFields
  checkDepth
  clipImage
  checkSize
  setRowSize

/-- The window and the rows of R181. -/
def drawImage : Op Unit := do
  update (setSeq .bmpWin)
  let w ← readDec .w fun s => s.decW
  let h ← readDec .h fun s => s.decH
  windowBody 0 0 (BitVec.ofNat 16 (w - 1)) (BitVec.ofNat 16 (h - 1))
  rowLoop h 0

/-- The opening of the source (R181, 92 D36). -/
def openSource (h : Byte) : Op Unit := do
  update (setSeq .bmpOpen)
  let ok ← srcOpen h
  if ok then update fun s => startDecode { s with decSrcOpen := true }
  else raise .resourceNotFoundError none .none

/-- DECODE_BMP (R181). -/
def decodeBmpBody (h : Byte) : Op (Option Half) := do
  requireReady
  openSource h
  checkImage
  drawImage
  update (setSeq .bmpDone)
  update closeStream
  update closeSource
  pure none

/-- DECODE_BMP (R181). -/
def execDecodeBmp (h : Byte) (s : State) : Host.Outcome State Fault Refusal :=
  runOperation .decodeBmp (some h) (decodeBmpBody h) s

end Sys2Proof.Machine
end

