-- ==== Sys2Proof/Machine/Commands.lean ====
section
/-! DEFINITION. The eight controller commands (spec/41_controller_commands.md R122-R129): what the reference controller
does when the command's frame reaches it. TFTCORE emits these frames inside its own operations, which deliver the same
bytes to the same controller. -/

namespace Sys2Proof.Machine

/-- The outcome of a command frame at the controller. -/
def runFrame (code : Byte) (payload : List Byte) (s : State) : Host.Outcome State Fault Refusal :=
  match ctlFrame code payload s with
  | .ok t => .next t
  | .error f => .fault f

/-- SWRESET (R122): `C(CMD_SWRESET)`. -/
def execSwreset (s : State) : Host.Outcome State Fault Refusal := runFrame s.cfg.cmdSwreset [] s

/-- SLPOUT (R123): `C(CMD_SLPOUT)`. -/
def execSlpout (s : State) : Host.Outcome State Fault Refusal := runFrame s.cfg.cmdSlpout [] s

/-- CASET (R124): `C(CMD_CASET)` and the four payload bytes of R75. -/
def execCaset (x0 x1 : Half) (s : State) : Host.Outcome State Fault Refusal :=
  runFrame s.cfg.cmdCaset (windowPayload x0 x1) s

/-- RASET (R125): `C(CMD_RASET)` and the four payload bytes of R75. -/
def execRaset (y0 y1 : Half) (s : State) : Host.Outcome State Fault Refusal :=
  runFrame s.cfg.cmdRaset (windowPayload y0 y1) s

/-- RAMWR (R126): `C(CMD_RAMWR)` and the pixel stream after it (R79). -/
def execRamwr (stream : List Byte) (s : State) : Host.Outcome State Fault Refusal :=
  runFrame s.cfg.cmdRamwr stream s

/-- COLMOD (R127): `C(CMD_COLMOD)` and its payload byte. -/
def execColmod (v : Byte) (s : State) : Host.Outcome State Fault Refusal := runFrame s.cfg.cmdColmod [v] s

/-- MADCTL (R128): `C(CMD_MADCTL)` and its payload byte. -/
def execMadctl (v : Byte) (s : State) : Host.Outcome State Fault Refusal := runFrame s.cfg.cmdMadctl [v] s

/-- DISPON (R129): `C(CMD_DISPON)`. -/
def execDispon (s : State) : Host.Outcome State Fault Refusal := runFrame s.cfg.cmdDispon [] s

end Sys2Proof.Machine
end

