-- ==== Sys2Proof/Machine/Dispatch.lean ====
section
/-! DEFINITION. One arm per instruction, each a direct call of its meaning. -/

namespace Sys2Proof.Machine

def exec (i : Instr) (s : State) : Host.Outcome State Fault Refusal :=
  match i with
  | .init => Sys2Proof.Machine.execInit s
  | .setWindow x0 y0 x1 y1 => Sys2Proof.Machine.execSetWindow x0 y0 x1 y1 s
  | .writePixels bytes => Sys2Proof.Machine.execWritePixels bytes s
  | .endWrite => Sys2Proof.Machine.execEndWrite s
  | .fill color => Sys2Proof.Machine.execFill color s
  | .convert r g b => Sys2Proof.Machine.execConvert r g b s
  | .decodeBmp h => Sys2Proof.Machine.execDecodeBmp h s
  | .swreset => Sys2Proof.Machine.execSwreset s
  | .slpout => Sys2Proof.Machine.execSlpout s
  | .caset x0 x1 => Sys2Proof.Machine.execCaset x0 x1 s
  | .raset y0 y1 => Sys2Proof.Machine.execRaset y0 y1 s
  | .ramwr stream => Sys2Proof.Machine.execRamwr stream s
  | .colmod v => Sys2Proof.Machine.execColmod v s
  | .madctl v => Sys2Proof.Machine.execMadctl v s
  | .dispon => Sys2Proof.Machine.execDispon s

end Sys2Proof.Machine
end

