-- ==== Sys2Proof/Machine/Fetch.lean ====
section
/-! DEFINITION. What the next step finds: the instruction at the front of the waiting bytes (spec/30_encoding.md R86), or
one of the cases that are not an instruction; and how a test places an instruction there. TFTCORE has no program counter
and fetches nothing (10_state.md R27): the host issues each operation. -/

namespace Sys2Proof.Machine

/-- The bytes waiting, read by the decoder at the instance's configuration. -/
def fetch (s : State) : Decoded := decode s.cfg s.input

/-- The waiting bytes replaced by those after what was taken. -/
def consume (rest : List WireByte) (s : State) : State := { s with input := rest }

/-- Whether the driver of the bus admits a waiting byte: with TFTCORE there are host requests alone, and nothing else drives
the bus (R63); the controller by itself sees the bytes of its bus alone (log 1). -/
def BusDriver.admits : BusDriver → WireByte → Bool
  | .core, .req _ => true
  | .core, .cmd _ => false
  | .core, .data _ => false
  | .bench, .req _ => false
  | .bench, .cmd _ => true
  | .bench, .data _ => true

/-- Why a byte the driver does not admit is refused (R63, log 1). -/
def BusDriver.refusal : BusDriver → Refusal
  | .core => .foreignBus
  | .bench => .noCore

/-- The refusal of the byte that waits first, if the driver of the bus does not admit it. -/
def portRefusal (s : State) : Option Refusal :=
  match s.input with
  | [] => none
  | w :: _ => if s.busDriver.admits w then none else some s.busDriver.refusal

/-- The controller receives one data byte that no command byte precedes in the waiting bytes: it belongs to the context
in force (R121). -/
def receiveData (b : Byte) (s : State) : Host.Outcome State Fault Refusal :=
  match ctlData b s with
  | .ok t => .next t
  | .error f => .fault f

/-- The controller receives a command byte whose payload has not all arrived (R124). -/
def receiveCommand (b : Byte) (s : State) : Host.Outcome State Fault Refusal := .next (ctlCommand b s)

/-- The construction of a new instance the host asks for (R240); an ill-formed configuration is refused (93 I17). -/
def construct (c : Config) (s : State) : Host.Outcome State Fault Refusal :=
  if c.wf then .next (blockReset c s) else .refused .illFormedConfig

/-- Who drives the bus where the bytes of one instruction stand by themselves: a command frame is the controller's alone. -/
def driverOf : List WireByte → BusDriver
  | [] => .core
  | .req _ :: _ => .core
  | .cmd _ :: _ => .bench
  | .data _ :: _ => .bench

/-- The bytes of a table word, placed where the next step finds them, beside the driver they need (log 2). -/
def placeTableWord (nbits w : Nat) (s : State) : State :=
  { s with input := tableWire s.cfg nbits w, busDriver := driverOf (tableWire s.cfg nbits w) }

end Sys2Proof.Machine
end

