-- ==== Sys2Proof/Machine/Run.lean ====
section
/-! DEFINITION. What a step does with the bytes that wait, once the driver of the bus admits them. -/

namespace Sys2Proof.Machine

/-- The bytes that wait are taken as the instruction or the part of one that stands at their front. A request refused at its
decoding completes with IllegalOpError (spec/30_encoding.md R88, 93 I15). -/
def runWaiting (s : State) : Host.Outcome State Fault Refusal :=
  match fetch s with
  | .idle => .next s
  | .instr i rest => exec i (consume rest s)
  | .reservedOp b rest => .next (illegalOperation b (consume rest s))
  | .truncated b rest => .next (illegalOperation b (consume rest s))
  | .cutFrame b rest => receiveCommand b (consume rest s)
  | .strayData b rest => receiveData b (consume rest s)
  | .unknownCommand b => .refused (.unknownCommand b)

end Sys2Proof.Machine
end

