-- ==== Sys2Proof/Machine/Step.lean ====
section
/-! DEFINITION. One step of the machine: a construction the host asks for, else the next host request (or, for the
controller by itself with no TFTCORE on its bus, the next bytes on that bus), else nothing. -/

namespace Sys2Proof.Machine

/-- One step. With nothing waiting the machine stays as it is: "state survives between operations indefinitely"
(spec/60_exceptions.md R227). While TFTCORE drives the bus only host requests are taken (20_memory.md R63). -/
def step (s : State) : Host.Outcome State Fault Refusal :=
  match s.newInstance with
  | some c => construct c s
  | none =>
    if s.cfg.wf then
      match portRefusal s with
      | some r => .refused r
      | none => runWaiting s
    else .refused .illFormedConfig

/-- `s` with the instruction of a table word waiting where `step` takes its next instruction. -/
def State.withFetchWord (s : State) (nbits w : Nat) : State := placeTableWord nbits w s

end Sys2Proof.Machine
end

