-- ==== Sys2Proof/Machine/Pseudo.lean ====
section
/-! DEFINITION. The pseudo-instructions of spec/30_encoding.md R91 as the host operations they expand to, and the host
program syntax of R90. -/

namespace Sys2Proof.Machine

/-- `CLEAR` (R91). -/
def pseudoClear : List Instr := [.fill 0]

/-- `DRAW_PIXEL x, y, p` (R91). -/
def pseudoDrawPixel (x y p : Half) : List Instr := [.setWindow x y x y, .writePixels (be16Bytes p), .endWrite]

/-- `FILL_RECT x0, y0, x1, y1, c` (R91). DESIGN CHOICE (log 37): R91 does not say what the repeat count is when `x1 < x0` or
`y1 < y0`; a difference below 0 counts as 0 here, so that side contributes a factor of 1. No byte
is sent in that case: SET_WINDOW raises WindowRangeError (R143), which closes an open stream (R216), and WRITE_PIXELS then
finds none (R145). -/
def pseudoFillRect (x0 y0 x1 y1 color : Half) : List Instr :=
  [.setWindow x0 y0 x1 y1,
   .writePixels
    (fillChunkBytes color 0 (2 * ((x1.toNat - x0.toNat + 1) * (y1.toNat - y0.toNat + 1)))),
   .endWrite]

/-- `WRITE_RGB r, g, b` (R91): the host sends the response of CONVERT on, high byte first. -/
def pseudoWriteRgb (c : Config) (r g b : Byte) : List Instr :=
  [.convert r g b, .writePixels (be16Bytes (convertPixel c.swapRb r g b))]

/-- `STREAM_RAW` (R83, R91): the container's bytes, in the chunks given. -/
def pseudoStreamRaw (c : Config) (chunks : List (List Byte)) : List Instr :=
  .setWindow 0 0 (BitVec.ofNat 16 (c.panelW - 1)) (BitVec.ofNat 16 (c.panelH - 1)) ::
    (chunks.map .writePixels ++ [.endWrite])

/-- Operands separated by commas (R90). -/
def commaList : List String → String
  | [] => ""
  | [a] => a
  | a :: as => a ++ ", " ++ commaList as

/-- A line of a host program (R90); the controller commands have none, the host cannot issue them. -/
def hostLine : Instr → Option String
  | .init => some "INIT"
  | .setWindow x0 y0 x1 y1 =>
    some ("SET_WINDOW " ++ commaList [toString x0.toNat, toString y0.toNat, toString x1.toNat, toString y1.toNat])
  | .writePixels bytes => some ("WRITE_PIXELS [" ++ commaList (bytes.map fun b => toString b.toNat) ++ "]")
  | .endWrite => some "END_WRITE"
  | .fill color => some ("FILL " ++ toString color.toNat)
  | .convert r g b => some ("CONVERT " ++ commaList [toString r.toNat, toString g.toNat, toString b.toNat])
  | .decodeBmp h => some ("DECODE_BMP " ++ toString h.toNat)
  | .swreset => none
  | .slpout => none
  | .caset _ _ => none
  | .raset _ _ => none
  | .ramwr _ => none
  | .colmod _ => none
  | .madctl _ => none
  | .dispon => none

end Sys2Proof.Machine
end

