-- ==== Sys2Proof/Machine/Trace.lean ====
section
/-! DEFINITION. Views of the trace (spec/10_state.md R40): the trace in emission order, and the bus view, which is what the
controller receives. -/

namespace Sys2Proof.Machine

/-- One item of the bus view (R40): `C(b)` or `D(b)` with the answer of its `Tx`, or `DESEL`. -/
inductive BusItem where
  | byte (label : DcMode) (b : Byte) (ok : Bool)
  | desel
deriving DecidableEq, Repr

/-- The trace, oldest event first (R40). -/
def State.events (s : State) : List Event := s.trace.reverse

/-- The command/data mode in force after the events of a trace (newest first). -/
def modeAfter (c : Config) : List Event → DcMode
  | [] => .unknown
  | .pinDc lvl :: _ => if lvl = c.dcCmd then .cmd else .data
  | _ :: es => modeAfter c es

/-- The bus view of a trace, both newest first. -/
def busViewRev (c : Config) : List Event → List BusItem
  | [] => []
  | .tx b ok :: es => .byte (modeAfter c es) b ok :: busViewRev c es
  | .pinCs lvl :: es => if lvl = c.csActive then busViewRev c es else .desel :: busViewRev c es
  | _ :: es => busViewRev c es

/-- The bus view of the trace, oldest item first (R40). -/
def State.busView (s : State) : List BusItem := (busViewRev s.cfg s.trace).reverse

/-- `C(b)`, answered ok. -/
def itemC (b : Byte) : BusItem := .byte .cmd b true

/-- `D(b)`, answered ok. -/
def itemD (b : Byte) : BusItem := .byte .data b true

/-- "The bus is owned by TFTCORE from a successful `BusClaim` on" (60_exceptions.md R222). -/
def State.busOwned (s : State) : Bool := s.trace.any fun e => decide (e = .busClaim true)

end Sys2Proof.Machine
end

