-- ==== Sys2Proof/Safety.lean ====
section
/-! DEFINITION. What the statements speak of: the invariants of the machine between operations, the parts of the state an
operation leaves alone, and the premises on the collaborator's answers. -/

namespace Sys2Proof.Safety

open Sys2Proof.Machine

/-! ## Invariants between operations -/

/-- What holds between operations, whatever waits on the inputs (spec/10_state.md R21, R23-R28, R40). -/
structure Resting (s : State) : Prop where
  /-- `seq` holds `IDLE` between operations (R28). -/
  seqIdle : s.seq = .idle
  /-- `dec_src_open` is true only inside DECODE_BMP (R29). -/
  sourceClosed : s.decSrcOpen = false
  /-- `Resetting` and `Initializing` hold only during INIT (R21). -/
  notInInit : s.drvState ≠ .resetting ∧ s.drvState ≠ .initializing
  /-- `stream_open ⇒ bus_sel` and `bus_sel ⇒ stream_open` (R25). -/
  selectedIffStream : s.busSel = s.streamOpen
  /-- `stream_open ⇒ dc = DATA` (R25). -/
  streamInData : s.streamOpen = true → s.dc = .data
  /-- A stream is opened, and left open, only in `Ready` (R22, R25). -/
  streamInReady : s.streamOpen = true → s.drvState = .ready
  /-- The reset line is deasserted outside INIT step 1 (R26, R108). -/
  resetHigh : s.rstLvl = .high
  /-- `dc` is the level the line was last driven to (R24). -/
  lineAgrees : modeAfter s.cfg s.trace = s.dc
  /-- The memories keep their canonical form. -/
  gramForm : Memory.wf s.gram = true
  hdrForm : Memory.wf s.hdr = true
  inbufForm : Memory.wf s.inbuf = true
  outbufForm : Memory.wf s.outbuf = true

/-- The window of the controller lies in the panel (R52). -/
def windowInPanel (s : State) : Prop :=
  s.ctl.xs.toNat ≤ s.ctl.xe.toNat ∧ s.ctl.xe.toNat < s.cfg.panelW ∧
  s.ctl.ys.toNat ≤ s.ctl.ye.toNat ∧ s.ctl.ye.toNat < s.cfg.panelH

/-- Only host requests wait (R63). -/
def requestsOnly (s : State) : Prop := ∀ w ∈ s.input, ∃ b, w = .req b

/-- A state a host program can reach: at rest, TFTCORE alone on the bus, only requests waiting, and while a stream is open the controller is in the
memory-write context with a window in the panel (R25, R52, R144). -/
structure HostState (s : State) : Prop where
  resting : Resting s
  /-- "The bus belongs to TFTCORE alone" (R63). -/
  coreOnBus : s.busDriver = .core
  requests : requestsOnly s
  streamContext : s.streamOpen = true → s.ctl.cmd = some s.cfg.cmdRamwr
  streamWindow : s.streamOpen = true → windowInPanel s

/-- Every byte ever transferred in command mode is one of the eight codes (R89). -/
def CommandsClosed (s : State) : Prop :=
  ∀ b ok, BusItem.byte .cmd b ok ∈ s.busView → b ∈ s.cfg.commandCodes

/-! ## Parts of the state -/

/-- The driver registers (R21-R26). -/
def SameDriver (s t : State) : Prop :=
  t.drvState = s.drvState ∧ t.busSel = s.busSel ∧ t.dc = s.dc ∧ t.streamOpen = s.streamOpen ∧ t.rstLvl = s.rstLvl

/-- The decoder registers and buffers (R29-R31). -/
def SameDecoder (s t : State) : Prop :=
  t.decSrcW = s.decSrcW ∧ t.decSrcH = s.decSrcH ∧ t.decBpp = s.decBpp ∧ t.decW = s.decW ∧ t.decH = s.decH ∧
  t.decRowSize = s.decRowSize ∧ t.decRow = s.decRow ∧ t.decSrcOpen = s.decSrcOpen ∧ t.decWritten = s.decWritten ∧
  t.hdr = s.hdr ∧ t.inbuf = s.inbuf ∧ t.outbuf = s.outbuf ∧
  t.hdrWritten = s.hdrWritten ∧ t.inbufWritten = s.inbufWritten ∧ t.outbufWritten = s.outbufWritten

/-- The values of the decoder registers (R29). -/
def SameDecValues (s t : State) : Prop :=
  t.decSrcW = s.decSrcW ∧ t.decSrcH = s.decSrcH ∧ t.decBpp = s.decBpp ∧ t.decW = s.decW ∧ t.decH = s.decH ∧
  t.decRowSize = s.decRowSize ∧ t.decRow = s.decRow

/-- The status register and the response (R33, R39). -/
def SameStatus (s t : State) : Prop := t.stCode = s.stCode ∧ t.stInfo = s.stInfo ∧ t.result = s.result

/-- The inputs other than the answers to byte transfers, and who drives the bus. -/
def SameOtherInputs (s t : State) : Prop :=
  t.input = s.input ∧ t.newInstance = s.newInstance ∧ t.claimIn = s.claimIn ∧ t.openIn = s.openIn ∧
  t.readIn = s.readIn ∧ t.cancelIn = s.cancelIn ∧ t.busDriver = s.busDriver

/-- Every byte of GRAM reads as before (R67). -/
def SameGram (s t : State) : Prop := ∀ a, gramByte t a = gramByte s a

/-- `t` differs from `s` at most in the external controller: its registers, GRAM and the free values drawn for them. -/
def OnlyController (s t : State) : Prop :=
  t = { s with ctl := t.ctl, gram := t.gram, gramEpoch := t.gramEpoch, freeCtr := t.freeCtr }

/-- `t` is `s` with the status register and the response of a completed operation with no result (R33). -/
def StatusOnly (s t : State) (code : StCode) (info : StInfo) : Prop :=
  t = { s with stCode := code, stInfo := info, result := none }

/-! ## Premises and the pixels of a stream -/

/-- The next `n` byte transfers are answered ok, and `rest` are the answers after them. -/
def TransfersOk (s : State) (n : Nat) (rest : List TxAns) : Prop := s.txIn = List.replicate n .ok ++ rest

/-- No pixel of an open stream is half sent, so closing the stream leaves GRAM alone (93 I2). -/
def NoHalfPixel (s : State) : Prop := s.streamOpen = true → s.ctl.hi = none

/-- The two bytes of the cell that pixel `k` of a stream lands in. -/
def isPixelByte (c : Ctl) (k a : Nat) : Prop :=
  a = gramAddr (pixelX c k) (pixelY c k) ∨ a = gramAddr (pixelX c k) (pixelY c k) + 1

/-- GRAM reads as before but for the first `n` cells, row by row, of a window of width `w` at the origin. -/
def SameButFirstCells (s t : State) (w n : Nat) : Prop :=
  ∀ a, (∀ k, k < n → a ≠ gramAddr (k % w) (k / w) ∧ a ≠ gramAddr (k % w) (k / w) + 1) → gramByte t a = gramByte s a

/-- Pixel `k` of a stream of bytes (R55, R79): bytes `2k` and `2k + 1`. -/
def streamPixel (bytes : List Byte) (k : Nat) : Half := be16 (bytes.getD (2 * k) 0) (bytes.getD (2 * k + 1) 0)

/-- `ctl_args` (R37). -/
def ArgsAre (t : State) (a0 a1 a2 a3 : Byte) : Prop :=
  t.ctl.arg0 = a0 ∧ t.ctl.arg1 = a1 ∧ t.ctl.arg2 = a2 ∧ t.ctl.arg3 = a3

/-- `ctl_args` as before (R37). -/
def SameArgs (s t : State) : Prop := ArgsAre t s.ctl.arg0 s.ctl.arg1 s.ctl.arg2 s.ctl.arg3

/-- What SET_WINDOW puts on the bus (R143), after the release of a stream left open. -/
def windowItems (c : Config) (x0 y0 x1 y1 : Half) : List BusItem :=
  [itemC c.cmdCaset, .desel] ++ (windowPayload x0 x1).map itemD ++ [.desel] ++
  [itemC c.cmdRaset, .desel] ++ (windowPayload y0 y1).map itemD ++ [.desel] ++ [itemC c.cmdRamwr]

/-- The release of a stream left open (R151). -/
def releaseItems (s : State) : List BusItem := if s.streamOpen then [.desel] else []

/-- The last window command's payload came whole, or another command came after it (R124): no window register is about to
be lost. -/
def WholeContext (s : State) : Prop :=
  ¬ (s.ctl.argi < 4 ∧ (s.ctl.cmd = some s.cfg.cmdCaset ∨ s.ctl.cmd = some s.cfg.cmdRaset))

/-- The seven host operations of R87; the others are commands of the controller. -/
def isHostOp : Instr → Bool
  | .init => true
  | .setWindow _ _ _ _ => true
  | .writePixels _ => true
  | .endWrite => true
  | .fill _ => true
  | .convert _ _ _ => true
  | .decodeBmp _ => true
  | .swreset => false
  | .slpout => false
  | .caset _ _ => false
  | .raset _ _ => false
  | .ramwr _ => false
  | .colmod _ => false
  | .madctl _ => false
  | .dispon => false

/-- The operation's name in a diagnostic record, for the operations that need `Ready` (R22). -/
def pixelOpName : Instr → Option OpName
  | .setWindow _ _ _ _ => some .setWindow
  | .writePixels _ => some .writePixels
  | .endWrite => some .endWrite
  | .fill _ => some .fill
  | .decodeBmp _ => some .decodeBmp
  | .init => none
  | .convert _ _ _ => none
  | .swreset => none
  | .slpout => none
  | .caset _ _ => none
  | .raset _ _ => none
  | .ramwr _ => none
  | .colmod _ => none
  | .madctl _ => none
  | .dispon => none

/-- The source handle in a diagnostic record: DECODE_BMP alone has one (R211). -/
def sourceOf : Instr → Option Byte
  | .decodeBmp h => some h
  | .init => none
  | .setWindow _ _ _ _ => none
  | .writePixels _ => none
  | .endWrite => none
  | .fill _ => none
  | .convert _ _ _ => none
  | .swreset => none
  | .slpout => none
  | .caset _ _ => none
  | .raset _ _ => none
  | .ramwr _ => none
  | .colmod _ => none
  | .madctl _ => none
  | .dispon => none

/-! ## Events of frames and operations (R102-R105, R111, R141-R143) -/

/-- CMD_FRAME `b`, transferred ok (R102). -/
def cmdEvents (c : Config) (b : Byte) : List Event :=
  [.pinDc c.dcCmd, .pinCs c.csActive, .tx b true, .pinCs c.csActive.opposite]

/-- Byte transfers answered ok. -/
def sentEvents (bs : List Byte) : List Event := bs.map fun b => .tx b true

/-- DATA_FRAME `bs`, transferred ok (R103). -/
def dataEvents (c : Config) (bs : List Byte) : List Event :=
  [.pinDc c.dcCmd.opposite, .pinCs c.csActive] ++ sentEvents bs ++ [.pinCs c.csActive.opposite]

/-- SET_WINDOW after the release of a stream left open, transferred ok (R143): CASET and RASET with their payloads, then
OPEN_STREAM (R105), which leaves CS active and the line in data mode. -/
def windowEvents (c : Config) (x0 y0 x1 y1 : Half) : List Event :=
  cmdEvents c c.cmdCaset ++ dataEvents c (windowPayload x0 x1) ++
  cmdEvents c c.cmdRaset ++ dataEvents c (windowPayload y0 y1) ++
  [.pinDc c.dcCmd, .pinCs c.csActive, .tx c.cmdRamwr true, .pinDc c.dcCmd.opposite]

/-- RESET_PULSE (R108), where a reset line is wired. -/
def pulseEvents (c : Config) : List Event :=
  if c.hasRst then [.pinRst .low, .wait .rstLow, .pinRst .high, .wait .rstHigh] else []

/-- The trace of R142 after the bus claim. -/
def initEvents (c : Config) : List Event :=
  pulseEvents c ++
  cmdEvents c c.cmdSwreset ++ [.wait .swreset] ++
  cmdEvents c c.cmdSlpout ++ [.wait .slpout] ++
  cmdEvents c c.cmdColmod ++ dataEvents c [c.colmodVal] ++ [.wait .colmod] ++
  cmdEvents c c.cmdMadctl ++ dataEvents c [c.madctlVal] ++ [.wait .madctl] ++
  cmdEvents c c.cmdDispon ++ [.wait .dispon]

/-- The seven transfers of INIT: the step each belongs to and how a failure of it is reported (R141, R215). -/
def initTransfers (c : Config) : List (Nat × TransferInfo) :=
  [(2, ⟨.cmd, some c.cmdSwreset, 0⟩), (3, ⟨.cmd, some c.cmdSlpout, 0⟩),
   (4, ⟨.cmd, some c.cmdColmod, 0⟩), (4, ⟨.data, none, 0⟩),
   (5, ⟨.cmd, some c.cmdMadctl, 0⟩), (5, ⟨.data, none, 0⟩),
   (6, ⟨.cmd, some c.cmdDispon, 0⟩)]

/-! ## Bitmap headers and rows (R80, R82, R182-R188) -/

/-- Byte `i` of a list. -/
def byteAt (bs : List Byte) (i : Nat) : Byte := bs.getD i 0

/-- The width field (R80, R183). -/
def headerWidth (bs : List Byte) : Word := le32 (byteAt bs 18) (byteAt bs 19) (byteAt bs 20) (byteAt bs 21)

/-- The height field (R80, R183). -/
def headerHeight (bs : List Byte) : Word := le32 (byteAt bs 22) (byteAt bs 23) (byteAt bs 24) (byteAt bs 25)

/-- The bit depth field (R80, R183). -/
def headerDepth (bs : List Byte) : Half := le16 (byteAt bs 28) (byteAt bs 29)

/-- The clipped width (R186). -/
def imageWidth (c : Config) (bs : List Byte) : Nat := min (headerWidth bs).toNat c.panelW

/-- The clipped height (R186). -/
def imageHeight (c : Config) (bs : List Byte) : Nat := min (headerHeight bs).toNat c.panelH

/-- The bytes of a stored row of the source (R82). -/
def imageRowSize (bs : List Byte) : Nat := rowSize (headerWidth bs).toNat

/-- The offset of output row `r` (R188). -/
def imageRowOffset (c : Config) (bs : List Byte) (r : Nat) : Nat :=
  c.headerSize + ((headerHeight bs).toNat - 1 - r) * imageRowSize bs

/-- The header passes every check before the window (R182-R187). -/
def headerAccepted (c : Config) (bs : List Byte) : Prop :=
  c.headerSize ≤ bs.length ∧ byteAt bs 0 = 0x42 ∧ byteAt bs 1 = 0x4D ∧ headerDepth bs = 24 ∧
  0 < (headerWidth bs).toNat ∧ 0 < (headerHeight bs).toNat

/-- The color of pixel `i` of a stored row (R82, R189): blue, green, red. -/
def rowPixel (swapRb : Bool) (row : List Byte) (i : Nat) : Half :=
  convertPixel swapRb (byteAt row (3 * i + 2)) (byteAt row (3 * i + 1)) (byteAt row (3 * i))

/-- The bytes of an output row on the bus (R171, R189, R190). -/
def rowStream (swapRb : Bool) (w : Nat) (row : List Byte) : List Byte :=
  (List.range w).flatMap fun i => be16Bytes (rowPixel swapRb row i)

/-- The stream bytes of output rows `0 … n - 1`. -/
def rowsStream (swapRb : Bool) (w n : Nat) (rows : Nat → List Byte) : List Byte :=
  (List.range n).flatMap fun r => rowStream swapRb w (rows r)

/-- How DECODE_BMP answers a header it rejects, in the order of R213: read failure, short header, signature, depth, zero
size. -/
def headerVerdict (c : Config) (ans : SrcAns) : Option (StCode × Option Reason × Detail) :=
  match ans with
  | .fail => some (.sourceReadError, none, .sourceRead none 0 c.headerSize)
  | .data bs =>
    if bs.length < c.headerSize then some (.formatError, some .shortHeader, .headerLength bs.length)
    else if byteAt bs 0 ≠ 0x42 ∨ byteAt bs 1 ≠ 0x4D then
      some (.formatError, some .badSignature, .signature (byteAt bs 0) (byteAt bs 1))
    else if headerDepth bs ≠ 24 then some (.unsupportedFormatError, some .bitDepth, .depth (headerDepth bs))
    else if (headerWidth bs).toNat = 0 ∨ (headerHeight bs).toNat = 0 then
      some (.formatError, some .zeroSize, .size (headerWidth bs) (headerHeight bs))
    else none

/-- The rows of an image as the source answers them: each at least a whole stored row. -/
def RowsAnswered (c : Config) (hdr : List Byte) (rows : Nat → List Byte) (n : Nat) : Prop :=
  n ≤ imageHeight c hdr ∧ ∀ r, r < n → imageRowSize hdr ≤ (rows r).length

/-- The answers of the source: the header, then rows `0 … n - 1`, then `rest`. -/
def sourceAnswers (hdr : List Byte) (rows : Nat → List Byte) (n : Nat) (rest : List SrcAns) : List SrcAns :=
  .data hdr :: ((List.range n).map fun r => SrcAns.data (rows r)) ++ rest

/-! ## Sequences of operations, and parts of the trace -/

/-- Operations issued one after another, each reaching a next state (R7, R61). -/
def runHost : List Instr → State → Option State
  | [], s => some s
  | i :: is, s =>
    match exec i s with
    | .next t => runHost is t
    | .fault _ => none
    | .refused _ => none

/-- The release of a stream left open, as a port event (R107, R151). -/
def releaseEvents (s : State) : List Event := if s.streamOpen then [.pinCs s.cfg.csActive.opposite] else []

/-- A byte transfer. -/
def isTxEvent : Event → Bool
  | .tx _ _ => true
  | .pinCs _ => false
  | .pinDc _ => false
  | .pinRst _ => false
  | .wait _ => false
  | .busClaim _ => false
  | .srcOpen _ _ => false
  | .srcRead _ _ _ => false
  | .srcClose => false

/-- The byte transfers of a list of events, in their order. -/
def txEvents (es : List Event) : List Event := es.filter isTxEvent

/-- An event of the source port (R39). -/
def isSourceEvent : Event → Bool
  | .srcOpen _ _ => true
  | .srcRead _ _ _ => true
  | .srcClose => true
  | .tx _ _ => false
  | .pinCs _ => false
  | .pinDc _ => false
  | .pinRst _ => false
  | .wait _ => false
  | .busClaim _ => false

/-- The events of the source port, in their order. -/
def sourceEvents (es : List Event) : List Event := es.filter isSourceEvent

/-- What a DECODE_BMP that reads `n` rows does at the source port (R181, R182, R188, R196): one open, one header read, one
read a row, one close. -/
def decodeSourceEvents (c : Config) (h : Byte) (hdr : List Byte) (rows : Nat → List Byte) (n : Nat) : List Event :=
  [.srcOpen h true, .srcRead 0 c.headerSize (.ok (hdr.take c.headerSize))] ++
  ((List.range n).map fun r =>
    Event.srcRead (imageRowOffset c hdr r) (imageRowSize hdr) (.ok ((rows r).take (imageRowSize hdr)))) ++
  [.srcClose]

/-- The rows of a DECODE_BMP on the ports (R181, R188, R190): for each row one source read, then its stream bytes. -/
def rowsEvents (c : Config) (hdr : List Byte) (rows : Nat → List Byte) (n : Nat) : List Event :=
  (List.range n).flatMap fun r =>
    .srcRead (imageRowOffset c hdr r) (imageRowSize hdr) (.ok ((rows r).take (imageRowSize hdr))) ::
      sentEvents (rowStream c.swapRb (imageWidth c hdr) (rows r))

/-- The stream bytes of FILL (R148, R149): the color's bytes in turn, the high byte first. -/
def fillStream (c : Config) (color : Half) : List Byte :=
  (List.range (c.panelW * c.panelH * 2)).map fun j => if j % 2 = 0 then hiByte color else loByte color

/-- The eleven transfers of SET_WINDOW and how a failure of each is reported (R102, R103, R105, R143). -/
def windowTransfers (c : Config) : List TransferInfo :=
  [⟨.cmd, some c.cmdCaset, 0⟩, ⟨.data, none, 0⟩, ⟨.data, none, 1⟩, ⟨.data, none, 2⟩, ⟨.data, none, 3⟩,
   ⟨.cmd, some c.cmdRaset, 0⟩, ⟨.data, none, 0⟩, ⟨.data, none, 1⟩, ⟨.data, none, 2⟩, ⟨.data, none, 3⟩,
   ⟨.cmd, some c.cmdRamwr, 0⟩]

/-- The next `n` byte transfers are answered ok, the one after them fails with answer `a`, and `rest` wait behind it. -/
def TransferFails (s : State) (n : Nat) (a : TxAns) (rest : List TxAns) : Prop :=
  s.txIn = List.replicate n .ok ++ a :: rest ∧ a ≠ .ok

/-- The completion record of a host operation that returned with no result (R33). -/
def ReturnedOk (t : State) : Prop := t.stCode = .ok ∧ t.stInfo = StInfo.empty ∧ t.result = none ∧ t.seq = .idle

/-- The completion record of an operation that ended in `code` (R211, R216). -/
def EndedWith (t : State) (code : StCode) (info : StInfo) : Prop :=
  t.stCode = code ∧ t.stInfo = info ∧ t.result = none ∧ t.seq = .idle

/-- No bus frame is open and no stream either, the state an aborted operation leaves (R101, R216). -/
def BusReleased (t : State) : Prop := t.busSel = false ∧ t.streamOpen = false

/-- The bytes of GRAM outside the window of `s` read as before (R126 "Cells outside the window never change"). -/
def SameOutsideWindow (s t : State) : Prop :=
  ∀ a, (∀ k, k < windowCount s.ctl → ¬ isPixelByte s.ctl k a) → gramByte t a = gramByte s a

/-- The controller's registers that no window write touches (R123, R127-R129). -/
def SameDisplayRegs (s t : State) : Prop :=
  t.ctl.madctl = s.ctl.madctl ∧ t.ctl.colmod = s.ctl.colmod ∧ t.ctl.colmodRecv = s.ctl.colmodRecv ∧
  t.ctl.sleep = s.ctl.sleep ∧ t.ctl.disp = s.ctl.disp

/-- The controller's window registers (R37). -/
def WindowIs (t : State) (x0 y0 x1 y1 : Half) : Prop :=
  t.ctl.xs = x0 ∧ t.ctl.xe = x1 ∧ t.ctl.ys = y0 ∧ t.ctl.ye = y1

/-- The stream of an operation can reach GRAM as R126 says: the stream is open in the memory-write context with a window in
the panel, the line in data mode. -/
structure StreamReady (s : State) : Prop where
  ready : s.drvState = .ready
  isOpen : s.streamOpen = true
  dataMode : s.dc = .data
  lineAgrees : modeAfter s.cfg s.trace = .data
  context : s.ctl.cmd = some s.cfg.cmdRamwr
  window : windowInPanel s

/-- The panel's last column and row as window operands (R148). -/
def lastColumn (c : Config) : Half := BitVec.ofNat 16 (c.panelW - 1)
def lastRow (c : Config) : Half := BitVec.ofNat 16 (c.panelH - 1)

/-- The clipped image's last column and row as window operands (R181). -/
def lastImageColumn (c : Config) (hdr : List Byte) : Half := BitVec.ofNat 16 (imageWidth c hdr - 1)
def lastImageRow (c : Config) (hdr : List Byte) : Half := BitVec.ofNat 16 (imageHeight c hdr - 1)

/-- Two outcomes that differ at most in GRAM's contents. -/
def SameButGram : Host.Outcome State Fault Refusal → Host.Outcome State Fault Refusal → Prop
  | .next t, o => ∃ g e, o = .next { t with gram := g, gramEpoch := e }
  | .fault f, o => o = .fault f
  | .refused r, o => o = .refused r

end Sys2Proof.Safety
end

