-- ==== Sys2Proof/Certificates/Slice0/Obligations.lean ====
section
/-! DEFINITION. The statements for the provers, in the order of OBLIGATIONS.json. -/

open Sys2Proof Sys2Proof.Machine Sys2Proof.Safety

/-! ## Encoding -/

/-- Decoding an encoded instruction gives it back with whatever follows (R74, R85-R87). The premise on `rest` is R85: a
pixel stream runs until the next byte that is not data. -/
def Obligations.DecodeInvertsEncode : Prop :=
  ∀ (c : Config) (i : Instr) (rest : List WireByte), c.wf = true → wellFormed i = true →
    (∀ b ws, rest ≠ .data b :: ws) → decode c (encode c i ++ rest) = .instr i rest

/-- Words written out from R74, R75, R86 and R87 decode to the instructions they stand for. -/
def Obligations.WordsOfTheSpec : Prop :=
  decode Config.default [.req 0x01] = .instr .init [] ∧
  decode Config.default
      [.req 0x02, .req 0x00, .req 0x01, .req 0x00, .req 0x02, .req 0x00, .req 0x03, .req 0x01, .req 0x3F] =
    .instr (.setWindow 1 2 3 319) [] ∧
  decode Config.default [.req 0x03, .req 0x00, .req 0x00, .req 0x00, .req 0x02, .req 0x12, .req 0x34, .req 0x04] =
    .instr (.writePixels [0x12, 0x34]) [.req 0x04] ∧
  decode Config.default [.req 0x05, .req 0xF8, .req 0x00] = .instr (.fill 0xF800) [] ∧
  decode Config.default [.req 0x06, .req 0x12, .req 0x34, .req 0x56] = .instr (.convert 0x12 0x34 0x56) [] ∧
  decode Config.default [.req 0x07, .req 0x09] = .instr (.decodeBmp 0x09) [] ∧
  decode Config.default [.cmd 0x2A, .data 0x00, .data 0x00, .data 0x00, .data 0xEF] = .instr (.caset 0 239) [] ∧
  decode Config.default [.cmd 0x2B, .data 0x00, .data 0x00, .data 0x01, .data 0x3F] = .instr (.raset 0 319) [] ∧
  decode Config.default [.cmd 0x2C, .data 0x2A, .data 0x2B, .cmd 0x29] = .instr (.ramwr [0x2A, 0x2B]) [.cmd 0x29] ∧
  decode Config.default [.cmd 0x3A, .data 0x55] = .instr (.colmod 0x55) []

/-- A request with a reserved op byte raises IllegalOpError, emits no port event and changes no state but the status register
and the response port (R88). The request is the one byte, taken from those that wait: the model's choice of log 14. -/
def Obligations.ReservedOpByte : Prop :=
  ∀ (s : State) (b : Byte) (ws : List WireByte), s.newInstance = none → s.cfg.wf = true → s.busDriver = .core →
    s.input = .req b :: ws → (b = 0x00 ∨ 0x08 ≤ b.toNat) →
    ∃ t, step s = .next t ∧
      t = { s with input := ws, stCode := .illegalOpError, stInfo := t.stInfo, result := t.result }

/-- A request that ends before its operands are complete is refused by its decoding (R86) as 93 I15 says: IllegalOpError, no
port event, no change but the status register and the response port. All its bytes are taken (log 13). -/
def Obligations.TruncatedRequestRefused : Prop :=
  ∀ (s : State) (i : Instr) (n : Nat), s.newInstance = none → s.cfg.wf = true → s.busDriver = .core → isHostOp i = true →
    wellFormed i = true → 0 < n → n < (encode s.cfg i).length → s.input = (encode s.cfg i).take n →
    ∃ t, step s = .next t ∧
      t = { s with input := [], stCode := .illegalOpError, stInfo := t.stInfo, result := t.result }

/-- A byte on the controller's bus that the spec gives no meaning is refused by name: a command byte that is none of the eight,
at the controller by itself (R89; the model's choice of log 22), and any command or data byte at all while TFTCORE drives the
bus, which no other agent may write (R63; the model's choice of log 1). -/
def Obligations.UnknownCommandRefused : Prop :=
  (∀ (s : State) (b : Byte) (ws : List WireByte), s.newInstance = none → s.cfg.wf = true → s.busDriver = .bench →
    s.input = .cmd b :: ws → b ∉ s.cfg.commandCodes → step s = .refused (.unknownCommand b)) ∧
  (∀ (s : State) (b : Byte) (ws : List WireByte), s.newInstance = none → s.cfg.wf = true → s.busDriver = .core →
    (s.input = .cmd b :: ws ∨ s.input = .data b :: ws) → step s = .refused .foreignBus)

/-! ## The step, reset and construction -/

/-- When the waiting bytes decode to `i` and the driver of the bus admits the first of them, a step is `exec i` with those bytes
taken. The queue of labelled bytes, and a command frame placed in it for the controller by itself, are the model's choice
(logs 1 and 2): R7 and R27 say only that the host issues each operation and that TFTCORE fetches nothing. -/
def Obligations.StepRunsDecoded : Prop :=
  ∀ (s : State) (i : Instr) (rest : List WireByte), s.newInstance = none → s.cfg.wf = true →
    (∀ w ∈ s.input.head?, s.busDriver.admits w = true) → decode s.cfg s.input = .instr i rest →
    step s = exec i { s with input := rest }

/-- With nothing waiting the machine stays as it is (R227; the model's choice of log 15). -/
def Obligations.IdleStays : Prop :=
  ∀ s : State, s.newInstance = none → s.cfg.wf = true → s.input = [] → step s = .next s

/-- Block reset (R240): every TFTCORE register at the value of R41, nothing sent to the controller, whose registers stay (R41
"not on block reset"), and no cell of GRAM with a specified value (93 I3). It runs in every state, `Failed` included. That the
new instance starts with an empty trace is the model's choice of log 16. -/
def Obligations.BlockResetValues : Prop :=
  ∀ (s : State) (c : Config), s.newInstance = some c → c.wf = true →
    ∃ t, step s = .next t ∧ t.cfg = c ∧ t.drvState = .uninitialized ∧ t.busSel = false ∧ t.dc = .unknown ∧
      t.streamOpen = false ∧ t.rstLvl = .high ∧ t.seq = .idle ∧ t.decSrcOpen = false ∧ t.decWritten = [] ∧
      t.hdr = [] ∧ t.inbuf = [] ∧ t.outbuf = [] ∧ t.stCode = .ok ∧ t.stInfo = StInfo.empty ∧ t.trace = [] ∧
      t.busDriver = .core ∧ t.ctl = s.ctl ∧ t.gram = []

/-- A configuration outside the ranges of R6 is refused at construction (R35, 93 I17). The second clause is the model's choice
of log 16: an instance that holds one, which no construction makes, is refused at every step. -/
def Obligations.IllFormedConfigRefused : Prop :=
  (∀ (s : State) (c : Config), s.newInstance = some c → c.wf = false → step s = .refused .illFormedConfig) ∧
  (∀ s : State, s.newInstance = none → s.cfg.wf = false → step s = .refused .illFormedConfig)

/-- The state after reset (R41), of TFTCORE and of the controller (R37), at the defaults of R6. -/
def Obligations.ResetState : Prop :=
  State.reset.drvState = .uninitialized ∧ State.reset.busSel = false ∧ State.reset.dc = .unknown ∧
  State.reset.streamOpen = false ∧ State.reset.rstLvl = .high ∧ State.reset.seq = .idle ∧
  State.reset.decSrcOpen = false ∧ State.reset.stCode = .ok ∧ State.reset.stInfo = StInfo.empty ∧
  State.reset.ctl.cmd = none ∧ State.reset.ctl.argi = 0 ∧ State.reset.ctl.sleep = true ∧
  State.reset.ctl.disp = false ∧ State.reset.ctl.wp = 0 ∧ State.reset.ctl.hi = none ∧
  State.reset.cfg.panelW = 240 ∧ State.reset.cfg.panelH = 320 ∧ State.reset.cfg.swapRb = true ∧
  State.reset.cfg.colmodVal = 0x55 ∧ State.reset.cfg.headerSize = 54 ∧
  State.reset.cfg.csActive = .low ∧ State.reset.cfg.dcCmd = .low ∧
  State.reset.cfg.commandCodes = [0x01, 0x11, 0x3A, 0x36, 0x2A, 0x2B, 0x2C, 0x29]

/-- Every instance just constructed meets the invariants of the machine between operations. -/
def Obligations.ResetMeetsInvariants : Prop :=
  ∀ c : Config, Resting (State.resetWith c) ∧ HostState (State.resetWith c) ∧ CommandsClosed (State.resetWith c)

/-! ## Invariants that every step keeps -/

/-- What holds between operations (R21, R25, R26, R28, R29: sequencer idle, stream open exactly while the bus is selected,
then in data mode and `Ready`, source closed, memories in canonical form) holds after every step, whatever waits. -/
def Obligations.StepKeepsResting : Prop :=
  ∀ s t : State, Resting s → step s = .next t → Resting t

/-- Under a host program TFTCORE stays alone on the bus (R63), and an open stream always has the controller in the memory-write
context with a window in the panel (R25, R52). -/
def Obligations.StepKeepsHostState : Prop :=
  ∀ s t : State, HostState s → step s = .next t → HostState t

/-- A model of TFTCORE that emits any command byte outside the eight is wrong (R89): no step emits one. -/
def Obligations.OnlyEightCommandCodes : Prop :=
  ∀ s t : State, Resting s → CommandsClosed s → step s = .next t → CommandsClosed t

/-- Every host operation ends, whatever the collaborator answers: it reaches a next state and never a fault of the model
(R7, R13, R248; 93 I13, I14; R52 for the panel). -/
def Obligations.HostOperationsEnd : Prop :=
  ∀ (i : Instr) (s : State), HostState s → s.cfg.wf = true → isHostOp i = true → ∃ t, exec i s = .next t

/-- TFTCORE has no path to read GRAM (R50): an operation's outcome is the same, GRAM apart, whatever GRAM holds. -/
def Obligations.GramNeverRead : Prop :=
  ∀ (i : Instr) (s : State) (g : List Host.Cell) (e : Nat),
    SameButGram (exec i s) (exec i { s with gram := g, gramEpoch := e })

/-! ## Rules over all instructions -/

/-- The configuration is read-only for the life of an instance (R20, R35). -/
def Obligations.ConfigurationReadOnly : Prop :=
  ∀ s t : State, s.newInstance = none → step s = .next t → t.cfg = s.cfg

/-- Only INIT (and block reset) writes `drv_state` and `rst_lvl` (R21, R26). -/
def Obligations.DriverStateWrittenByInitOnly : Prop :=
  ∀ s t : State, s.newInstance = none → step s = .next t → (t.drvState ≠ s.drvState ∨ t.rstLvl ≠ s.rstLvl) →
    ∃ rest, decode s.cfg s.input = .instr .init rest

/-- Only DECODE_BMP writes the decoder registers and buffers (R29, R30, R42). -/
def Obligations.DecoderWrittenByDecodeOnly : Prop :=
  ∀ s t : State, s.newInstance = none → s.decSrcOpen = false → step s = .next t → ¬ SameDecoder s t →
    ∃ h rest, decode s.cfg s.input = .instr (.decodeBmp h) rest

/-- The trace of a host program is the concatenation of its operations' traces (R40): a step only appends. -/
def Obligations.TraceOnlyGrows : Prop :=
  ∀ s t : State, s.newInstance = none → step s = .next t → ∃ es, t.events = s.events ++ es

/-- TFTCORE never raises ConfigParseError (R229): no step brings code 5 into the status register. -/
def Obligations.ConfigParseErrorNeverRaised : Prop :=
  ∀ s t : State, s.stCode ≠ .configParseError → step s = .next t → t.stCode ≠ .configParseError

/-- An operation that ends in an error, or is cancelled, leaves the bus released, the stream and the source closed and the
sequencer idle (R13, R101, R193, R216, 90_conflicts.md C2). IllegalStateError and IllegalOpError alone are set apart (R88,
R214): they change nothing but the status. That WindowRangeError is among the codes that release, against R212's words that a
usage error changes nothing but the status, is the model's reading of C2 (DEDUCED, log 12). -/
def Obligations.AbortReleases : Prop :=
  ∀ (i : Instr) (s t : State), Resting s → isHostOp i = true → exec i s = .next t → t.stCode ≠ .ok →
    t.stCode.statusOnly = false → BusReleased t ∧ t.decSrcOpen = false ∧ t.seq = .idle

/-- What each class of codes leaves (R212): per-image and per-operation errors and a cancel leave `Ready`, InitError leaves
`Failed`, IllegalStateError and IllegalOpError change nothing but the status (R88, R214). WindowRangeError changes the status
and runs the abort sequence, which releases an open stream (R13, R216, 90_conflicts.md C2 over R212's words; log 12). -/
def Obligations.ErrorClasses : Prop :=
  ∀ (i : Instr) (s t : State), isHostOp i = true → exec i s = .next t →
    ((t.stCode = .formatError ∨ t.stCode = .unsupportedFormatError ∨ t.stCode = .transferError ∨
        t.stCode = .resourceNotFoundError ∨ t.stCode = .sourceReadError ∨ t.stCode = .cancelled) → t.drvState = .ready) ∧
    (t.stCode = .initError → i = .init ∧ t.drvState = .failed) ∧
    (t.stCode.statusOnly = true → t = { s with stCode := t.stCode, stInfo := t.stInfo, result := t.result }) ∧
    (t.stCode = .windowRangeError → s.decSrcOpen = false →
      t.events = s.events ++ releaseEvents s ∧ t.drvState = s.drvState ∧ t.dc = s.dc ∧ t.streamOpen = false ∧
      t.rstLvl = s.rstLvl ∧ t.seq = .idle ∧ t.ctl = s.ctl ∧ (NoHalfPixel s → SameGram s t) ∧ t.cfg = s.cfg ∧
      SameDecoder s t ∧ SameOtherInputs s t ∧ t.txIn = s.txIn)

/-- IllegalStateError is raised before any port event and leaves all state unchanged but the status, an open stream
included: the pixel operations outside `Ready`, INIT outside `Uninitialized` and `Ready`, WRITE_PIXELS with no stream open
(R22, R140, R141, R145, R214). That the response then carries no u16 (`result := none`) is the model's choice of log 26. -/
def Obligations.IllegalStateChangesStatusOnly : Prop :=
  (∀ (i : Instr) (op : OpName) (s : State), pixelOpName i = some op → s.drvState ≠ .ready →
    exec i s = .next { s with
      stCode := .illegalStateError, stInfo := ⟨some op, sourceOf i, some .state, .drvState s.drvState⟩, result := none }) ∧
  (∀ s : State, s.drvState ≠ .uninitialized → s.drvState ≠ .ready →
    exec .init s = .next { s with
      stCode := .illegalStateError, stInfo := ⟨some .init, none, some .state, .drvState s.drvState⟩, result := none }) ∧
  (∀ (bytes : List Byte) (s : State), s.drvState = .ready → s.streamOpen = false →
    exec (.writePixels bytes) s = .next { s with
      stCode := .illegalStateError, stInfo := ⟨some .writePixels, none, some .noOpenWindow, .none⟩, result := none })

/-- CLOSE_STREAM (R107): with a stream open it releases CS and clears `stream_open` and `bus_sel`, `dc` kept; with none open
it does nothing, so it is idempotent. That no register of the controller changes is not R107's: it is R121's sentence on `DESEL`,
which the spec marks as general knowledge, and, for `ctl_hi`, the model's reading that it keeps the byte (DEDUCED, log 19). -/
def Obligations.CloseStreamLaws : Prop :=
  ∀ s : State,
    (s.streamOpen = true → (closeStream s).streamOpen = false ∧ (closeStream s).busSel = false ∧
      (closeStream s).dc = s.dc ∧ (closeStream s).events = s.events ++ [.pinCs s.cfg.csActive.opposite] ∧
      (closeStream s).ctl = s.ctl) ∧
    (s.streamOpen = false → closeStream s = s) ∧
    closeStream (closeStream s) = closeStream s

/-! ## CONVERT -/

/-- CONVERT (R170): legal in every `drv_state`, the result `p` is the formula of R170, nothing changes but the status and the
response, and the response carries `p` big-endian with the status (R86). -/
def Obligations.ConvertResult : Prop :=
  ∀ (r g b : Byte) (p : Half) (s : State), s.seq = .idle →
    p = (((if s.cfg.swapRb then b else r) >>> 3).setWidth 16 <<< 11) ||| ((g >>> 2).setWidth 16 <<< 5) |||
      ((if s.cfg.swapRb then r else b) >>> 3).setWidth 16 →
    ∃ t, exec (.convert r g b) s = .next t ∧ t = { s with stCode := .ok, stInfo := StInfo.empty, result := some p } ∧
      t.response = ⟨.ok, StInfo.empty, [(p >>> 8).setWidth 8, p.setWidth 8]⟩

/-- The laws of R172: fields, truncation and monotony per channel, the swap relation. -/
def Obligations.ConvertLaws : Prop :=
  ∀ (swap : Bool) (r g b : Byte),
    (fieldHigh (convertPixel swap r g b)).toNat = (if swap then b else r).toNat / 8 ∧
    (fieldMid (convertPixel swap r g b)).toNat = g.toNat / 4 ∧
    (fieldLow (convertPixel swap r g b)).toNat = (if swap then r else b).toNat / 8 ∧
    convertPixel true r g b = convertPixel false b g r ∧
    (∀ r' g' b' : Byte, r.toNat ≤ r'.toNat → g.toNat ≤ g'.toNat → b.toNat ≤ b'.toNat →
      (convertPixel swap r g b).toNat ≤ (convertPixel swap r' g' b').toNat)

/-- Every packed color is reached by exactly 256 inputs (R172). -/
def Obligations.ConvertImageSize : Prop :=
  ∀ (swap : Bool) (p : Half),
    ((Finset.univ : Finset (Fin 256 × Fin 256 × Fin 256)).filter fun x =>
      convertPixel swap (BitVec.ofNat 8 x.1.val) (BitVec.ofNat 8 x.2.1.val) (BitVec.ofNat 8 x.2.2.val) = p).card = 256

/-! ## INIT -/

/-- INIT with the bus granted and every transfer ok (R141, R142, R243): the trace event by event, the driver, the
controller, and nothing else. -/
def Obligations.InitCompletes : Prop :=
  ∀ (s : State) (claims : List Bool) (rest : List TxAns),
    (s.drvState = .uninitialized ∨ s.drvState = .ready) → s.cfg.wf = true → s.busSel = s.streamOpen →
    s.claimIn = true :: claims → TransfersOk s 7 rest →
    ∃ t, exec .init s = .next t ∧ ReturnedOk t ∧
      t.events = s.events ++ releaseEvents s ++ [.busClaim true] ++ initEvents s.cfg ∧
      t.drvState = .ready ∧ BusReleased t ∧ t.dc = .cmd ∧ t.rstLvl = (if s.cfg.hasRst then .high else s.rstLvl) ∧
      t.ctl.sleep = false ∧ t.ctl.disp = true ∧ t.ctl.colmod = s.cfg.colmodVal ∧ t.ctl.madctl = s.cfg.madctlVal ∧
      t.ctl.cmd = some s.cfg.cmdDispon ∧ t.ctl.wp = 0 ∧ t.ctl.hi = none ∧ sixteenBit t = s.cfg.colmodIs16 ∧
      t.cfg = s.cfg ∧ SameDecoder s t ∧ t.claimIn = claims ∧ t.txIn = rest ∧ t.input = s.input ∧
      t.newInstance = s.newInstance ∧ t.openIn = s.openIn ∧ t.readIn = s.readIn ∧ t.cancelIn = s.cancelIn

/-- INIT with the bus refused (R141): InitError of step 0, `Failed`, no transfer. -/
def Obligations.InitClaimFailure : Prop :=
  ∀ (s : State) (claims : List Bool), (s.drvState = .uninitialized ∨ s.drvState = .ready) → s.busSel = s.streamOpen →
    s.decSrcOpen = false → s.claimIn = false :: claims →
    ∃ t, exec .init s = .next t ∧ EndedWith t .initError ⟨some .init, none, some .busClaim, .initStep 0 none⟩ ∧
      t.events = s.events ++ releaseEvents s ++ [.busClaim false] ∧ t.drvState = .failed ∧ BusReleased t ∧
      t.dc = s.dc ∧ t.rstLvl = s.rstLvl ∧ t.claimIn = claims ∧ t.txIn = s.txIn

/-- INIT with its transfer number `j` failing (R141, R215, R219): InitError of that transfer's step with the transfer's
frame and byte, `Failed`, the bus released, no later transfer. -/
def Obligations.InitTransferFailure : Prop :=
  ∀ (s : State) (claims : List Bool) (j : Nat) (hj : j < (initTransfers s.cfg).length) (a : TxAns) (rest : List TxAns),
    (s.drvState = .uninitialized ∨ s.drvState = .ready) → s.cfg.wf = true → s.busSel = s.streamOpen →
    s.decSrcOpen = false → s.claimIn = true :: claims → TransferFails s j a rest →
    ∃ t, exec .init s = .next t ∧
      EndedWith t .initError
        ⟨some .init, none, some .transfer,
          .initStep ((initTransfers s.cfg)[j]).1 (some ((initTransfers s.cfg)[j]).2)⟩ ∧
      t.drvState = .failed ∧ BusReleased t ∧ t.rstLvl = (if s.cfg.hasRst then .high else s.rstLvl) ∧ t.txIn = rest ∧
      (txEvents t.events).length = (txEvents s.events).length + j + 1 ∧ SameDecoder s t

/-! ## SET_WINDOW -/

/-- SET_WINDOW with every transfer ok (R143): the release of a stream left open, then CASET, RASET and RAMWR with their
payloads, line by line (R111) and on the bus view, with no `Wait` (R247); the stream open in data mode, the controller's one
window replaced, GRAM as before. -/
def Obligations.SetWindowCompletes : Prop :=
  ∀ (x0 y0 x1 y1 : Half) (s : State) (rest : List TxAns),
    s.drvState = .ready → s.cfg.wf = true → windowInRange s.cfg x0 y0 x1 y1 = true → s.busSel = s.streamOpen →
    TransfersOk s 11 rest →
    ∃ t, exec (.setWindow x0 y0 x1 y1) s = .next t ∧ ReturnedOk t ∧
      t.events = s.events ++ releaseEvents s ++ windowEvents s.cfg x0 y0 x1 y1 ∧
      t.busView = s.busView ++ releaseItems s ++ windowItems s.cfg x0 y0 x1 y1 ∧
      t.drvState = .ready ∧ t.busSel = true ∧ t.dc = .data ∧ t.streamOpen = true ∧ t.rstLvl = s.rstLvl ∧
      WindowIs t x0 y0 x1 y1 ∧ t.ctl.cmd = some s.cfg.cmdRamwr ∧ t.ctl.argi = 0 ∧ t.ctl.wp = 0 ∧ t.ctl.hi = none ∧
      ArgsAre t (hiByte y0) (loByte y0) (hiByte y1) (loByte y1) ∧ SameDisplayRegs s t ∧ (NoHalfPixel s → SameGram s t) ∧
      t.cfg = s.cfg ∧ SameDecoder s t ∧ SameOtherInputs s t ∧ t.txIn = rest

/-- SET_WINDOW with bounds outside the AddressWindow invariant (R143): WindowRangeError with the operands, raised before any
port event. The abort sequence of the raise (R13, R216, 90_conflicts.md C2) then releases a stream left open, its only event;
no register of the controller changes. That C2 decides over R212's words is log 12. -/
def Obligations.SetWindowRangeError : Prop :=
  ∀ (x0 y0 x1 y1 : Half) (s : State), s.drvState = .ready → s.decSrcOpen = false →
    ¬ (x0.toNat ≤ x1.toNat ∧ x1.toNat < s.cfg.panelW ∧ y0.toNat ≤ y1.toNat ∧ y1.toNat < s.cfg.panelH) →
    ∃ t, exec (.setWindow x0 y0 x1 y1) s = .next t ∧
      EndedWith t .windowRangeError ⟨some .setWindow, none, none, .window x0 y0 x1 y1⟩ ∧
      t.events = s.events ++ releaseEvents s ∧ t.streamOpen = false ∧
      t.busSel = (if s.streamOpen then false else s.busSel) ∧ t.drvState = .ready ∧ t.dc = s.dc ∧ t.rstLvl = s.rstLvl ∧
      t.ctl = s.ctl ∧ (NoHalfPixel s → SameGram s t) ∧
      t.cfg = s.cfg ∧ SameDecoder s t ∧ SameOtherInputs s t ∧ t.txIn = s.txIn

/-- SET_WINDOW with its transfer number `j` failing (R102, R103, R105, R143): TransferError naming the frame and byte, the
bus released, `Ready` kept, no later transfer, GRAM as before. -/
def Obligations.SetWindowTransferFailure : Prop :=
  ∀ (x0 y0 x1 y1 : Half) (s : State) (j : Nat) (hj : j < (windowTransfers s.cfg).length) (a : TxAns) (rest : List TxAns),
    s.drvState = .ready → s.cfg.wf = true → windowInRange s.cfg x0 y0 x1 y1 = true → s.busSel = s.streamOpen →
    s.decSrcOpen = false → TransferFails s j a rest →
    ∃ t, exec (.setWindow x0 y0 x1 y1) s = .next t ∧
      EndedWith t .transferError ⟨some .setWindow, none, some .transfer, .transfer ((windowTransfers s.cfg)[j])⟩ ∧
      t.drvState = .ready ∧ BusReleased t ∧ t.txIn = rest ∧
      (txEvents t.events).length = (txEvents s.events).length + j + 1 ∧ SameDisplayRegs s t ∧
      (NoHalfPixel s → SameGram s t) ∧ SameDecoder s t ∧ SameOtherInputs s t

/-- Window re-addressing is idempotent (R133): the second SET_WINDOW leaves the whole controller, GRAM included, as the first
did. That the first leaves GRAM as it found it is stated under a premise R133 does not name: no half pixel waits in the stream
it closes (93 I2, log 19). -/
def Obligations.WindowIdempotent : Prop :=
  ∀ (x0 y0 x1 y1 : Half) (s : State) (rest : List TxAns),
    s.drvState = .ready → s.cfg.wf = true → windowInRange s.cfg x0 y0 x1 y1 = true → s.busSel = s.streamOpen →
    TransfersOk s 22 rest →
    ∃ t u, exec (.setWindow x0 y0 x1 y1) s = .next t ∧ exec (.setWindow x0 y0 x1 y1) t = .next u ∧
      u.ctl = t.ctl ∧ WindowIs u x0 y0 x1 y1 ∧ u.ctl.wp = 0 ∧ u.ctl.hi = none ∧
      (NoHalfPixel s → SameGram s t) ∧ SameGram t u

/-! ## WRITE_PIXELS and END_WRITE -/

/-- WRITE_PIXELS with every transfer ok (R106, R145): one data byte a transfer and no other event, no register of TFTCORE
changed, of the controller only the pixel count and the half pixel, no cell outside the window (R126), whatever the length
of the stream. -/
def Obligations.WritePixelsCompletes : Prop :=
  ∀ (bytes : List Byte) (s : State) (rest : List TxAns), StreamReady s → s.cfg.wf = true →
    TransfersOk s bytes.length rest →
    ∃ t, exec (.writePixels bytes) s = .next t ∧ ReturnedOk t ∧
      t.events = s.events ++ bytes.map (fun b => .tx b true) ∧ t.busView = s.busView ++ bytes.map itemD ∧
      SameDriver s t ∧ t.ctl = { s.ctl with wp := t.ctl.wp, hi := t.ctl.hi } ∧ SameOutsideWindow s t ∧
      t.cfg = s.cfg ∧ SameDecoder s t ∧ SameOtherInputs s t ∧ t.txIn = rest

/-- Where the pixels of WRITE_PIXELS land (R55, R79, R126): the stream's pairing and count go on from the calls before, and
each whole pixel fills the next cell of the window, high byte first; no other cell changes. -/
def Obligations.WritePixelsPlacesPixels : Prop :=
  ∀ (bytes : List Byte) (s : State) (rest : List TxAns), StreamReady s → s.cfg.wf = true → sixteenBit s = true →
    TransfersOk s bytes.length rest →
    s.ctl.wp + (s.ctl.hi.toList ++ bytes).length / 2 ≤ windowCount s.ctl →
    ∃ t, exec (.writePixels bytes) s = .next t ∧
      t.ctl.wp = s.ctl.wp + (s.ctl.hi.toList ++ bytes).length / 2 ∧
      t.ctl.hi = ((s.ctl.hi.toList ++ bytes).drop (2 * ((s.ctl.hi.toList ++ bytes).length / 2))).head? ∧
      (∀ k, k < (s.ctl.hi.toList ++ bytes).length / 2 →
        gramPixel t (pixelX s.ctl (s.ctl.wp + k)) (pixelY s.ctl (s.ctl.wp + k)) =
          streamPixel (s.ctl.hi.toList ++ bytes) k) ∧
      (∀ a, (∀ k, k < (s.ctl.hi.toList ++ bytes).length / 2 → ¬ isPixelByte s.ctl (s.ctl.wp + k) a) →
        gramByte t a = gramByte s a)

/-- WRITE_PIXELS with byte `j` failing (R106, R109, R130): the bytes before it sent, the stream closed, then TransferError
with the byte's index; `Ready` kept, no cell outside the window changed. -/
def Obligations.WritePixelsTransferFailure : Prop :=
  ∀ (bytes : List Byte) (s : State) (j : Nat) (hj : j < bytes.length) (a : TxAns) (rest : List TxAns),
    StreamReady s → s.cfg.wf = true → TransferFails s j a rest →
    ∃ t, exec (.writePixels bytes) s = .next t ∧
      EndedWith t .transferError ⟨some .writePixels, none, some .transfer, .transfer ⟨.stream, none, j⟩⟩ ∧
      t.events = s.events ++ (bytes.take j).map (fun b => .tx b true) ++
        [.tx bytes[j] false, .pinCs s.cfg.csActive.opposite] ++ (if s.decSrcOpen then [.srcClose] else []) ∧
      t.drvState = .ready ∧ BusReleased t ∧ t.dc = .data ∧ SameOutsideWindow s t ∧ t.txIn = rest

/-- The chunking of WRITE_PIXELS calls is not observable (R106, R248): two calls that complete leave what one call with
both byte lists leaves. -/
def Obligations.WritePixelsChunks : Prop :=
  ∀ (xs ys : List Byte) (s t u : State), exec (.writePixels xs) s = .next t → t.stCode = .ok →
    exec (.writePixels ys) t = .next u → u.stCode = .ok → exec (.writePixels (xs ++ ys)) s = .next u

/-- END_WRITE (R107, R147): CS released if a stream is open, nothing emitted if none is; no controller register changes,
and GRAM only where a half pixel waits (93 I2). -/
def Obligations.EndWriteCompletes : Prop :=
  ∀ s : State, s.drvState = .ready →
    ∃ t, exec .endWrite s = .next t ∧ ReturnedOk t ∧ t.events = s.events ++ releaseEvents s ∧ t.streamOpen = false ∧
      t.busSel = (if s.streamOpen then false else s.busSel) ∧ t.drvState = .ready ∧ t.dc = s.dc ∧ t.rstLvl = s.rstLvl ∧
      t.ctl = s.ctl ∧ (NoHalfPixel s → SameGram s t) ∧
      (streamDefined s = true → s.ctl.wp < windowCount s.ctl →
        ∀ a, ¬ isPixelByte s.ctl s.ctl.wp a → gramByte t a = gramByte s a) ∧
      t.cfg = s.cfg ∧ SameDecoder s t ∧ SameOtherInputs s t ∧ t.txIn = s.txIn

/-- Window completeness (R134): SET_WINDOW and a stream of exactly the window's bytes, in any number of WRITE_PIXELS calls,
fill every cell of the window in row-major order and no other. Two premises are not R134's: 16-bit color is set (R126, R127),
and no half pixel waits in the stream that SET_WINDOW closes (93 I2). -/
def Obligations.WindowCompleteness : Prop :=
  ∀ (x0 y0 x1 y1 : Half) (chunks : List (List Byte)) (s : State) (rest : List TxAns),
    s.drvState = .ready → s.cfg.wf = true → windowInRange s.cfg x0 y0 x1 y1 = true → s.busSel = s.streamOpen →
    NoHalfPixel s → sixteenBit s = true →
    chunks.flatten.length = (x1.toNat - x0.toNat + 1) * (y1.toNat - y0.toNat + 1) * 2 →
    TransfersOk s (11 + chunks.flatten.length) rest →
    ∃ t, runHost (.setWindow x0 y0 x1 y1 :: chunks.map .writePixels) s = some t ∧ t.stCode = .ok ∧
      (∀ i j, i < x1.toNat - x0.toNat + 1 → j < y1.toNat - y0.toNat + 1 →
        gramPixel t (x0.toNat + i) (y0.toNat + j) = streamPixel chunks.flatten (j * (x1.toNat - x0.toNat + 1) + i)) ∧
      (∀ a, (∀ i j, i < x1.toNat - x0.toNat + 1 → j < y1.toNat - y0.toNat + 1 →
          a ≠ gramAddr (x0.toNat + i) (y0.toNat + j) ∧ a ≠ gramAddr (x0.toNat + i) (y0.toNat + j) + 1) →
        gramByte t a = gramByte s a)

/-- DRAW_PIXEL (R91): one cell of GRAM takes the color, no other changes, and the bus is released. -/
def Obligations.DrawPixelSetsOneCell : Prop :=
  ∀ (x y p : Half) (s : State) (rest : List TxAns),
    s.drvState = .ready → s.cfg.wf = true → x.toNat < s.cfg.panelW → y.toNat < s.cfg.panelH → s.busSel = s.streamOpen →
    NoHalfPixel s → sixteenBit s = true → TransfersOk s 13 rest →
    ∃ t, runHost (pseudoDrawPixel x y p) s = some t ∧ t.stCode = .ok ∧ BusReleased t ∧ t.txIn = rest ∧
      gramPixel t x.toNat y.toNat = p ∧
      (∀ a, a ≠ gramAddr x.toNat y.toNat → a ≠ gramAddr x.toNat y.toNat + 1 → gramByte t a = gramByte s a)

/-! ## FILL -/

/-- FILL with every transfer ok (R148, R149): the window of the whole panel, `2 * PANEL_W * PANEL_H` data bytes alternating
the color's bytes whatever `FILL_CHUNK` is, the stream closed; line by line (R111), with no `Wait` (R247), and on the bus
view. -/
def Obligations.FillCompletes : Prop :=
  ∀ (color : Half) (s : State) (rest : List TxAns),
    s.drvState = .ready → s.cfg.wf = true → s.busSel = s.streamOpen → TransfersOk s (11 + fillTotal s.cfg) rest →
    ∃ t, exec (.fill color) s = .next t ∧ ReturnedOk t ∧
      t.events = s.events ++ releaseEvents s ++ windowEvents s.cfg 0 0 (lastColumn s.cfg) (lastRow s.cfg) ++
        sentEvents (fillStream s.cfg color) ++ [.pinCs s.cfg.csActive.opposite] ∧
      t.busView = s.busView ++ releaseItems s ++ windowItems s.cfg 0 0 (lastColumn s.cfg) (lastRow s.cfg) ++
        (fillStream s.cfg color).map itemD ++ [.desel] ∧
      t.drvState = .ready ∧ BusReleased t ∧ t.dc = .data ∧ t.rstLvl = s.rstLvl ∧
      WindowIs t 0 0 (lastColumn s.cfg) (lastRow s.cfg) ∧ SameDisplayRegs s t ∧
      t.cfg = s.cfg ∧ SameDecoder s t ∧ SameOtherInputs s t ∧ t.txIn = rest

/-- FILL paints the panel (R149): afterwards every cell of GRAM holds the color. -/
def Obligations.FillPaintsPanel : Prop :=
  ∀ (color : Half) (s : State) (rest : List TxAns),
    s.drvState = .ready → s.cfg.wf = true → s.busSel = s.streamOpen → sixteenBit s = true →
    TransfersOk s (11 + fillTotal s.cfg) rest →
    ∃ t, exec (.fill color) s = .next t ∧ t.stCode = .ok ∧
      ∀ x y, x < s.cfg.panelW → y < s.cfg.panelH → gramPixel t x y = color

/-- FILL with stream byte `j` failing (R106, R148): TransferError with the byte's index in its chunk, the bus released,
`Ready` kept; the cells of the whole pixels sent keep the color, and those after the failing pixel are as before. And with transfer `j` of its window body failing (R143,
R148 "TransferError from any frame"): TransferError naming that frame and byte, no later transfer, GRAM as before. -/
def Obligations.FillTransferFailure : Prop :=
  (∀ (color : Half) (s : State) (j : Nat) (a : TxAns) (rest : List TxAns),
    s.drvState = .ready → s.cfg.wf = true → s.busSel = s.streamOpen → j < fillTotal s.cfg →
    TransferFails s (11 + j) a rest →
    ∃ t, exec (.fill color) s = .next t ∧
      EndedWith t .transferError
        ⟨some .fill, none, some .transfer, .transfer ⟨.stream, none, j % s.cfg.fillChunk⟩⟩ ∧
      t.drvState = .ready ∧ BusReleased t ∧ t.txIn = rest ∧
      (txEvents t.events).length = (txEvents s.events).length + 11 + j + 1 ∧
      (sixteenBit s = true → ∀ k, k < j / 2 → gramPixel t (k % s.cfg.panelW) (k / s.cfg.panelW) = color) ∧
      (NoHalfPixel s → sixteenBit s = true → SameButFirstCells s t s.cfg.panelW (j / 2 + 1))) ∧
  (∀ (color : Half) (s : State) (j : Nat) (hj : j < (windowTransfers s.cfg).length) (a : TxAns) (rest : List TxAns),
    s.drvState = .ready → s.cfg.wf = true → s.busSel = s.streamOpen → s.decSrcOpen = false → TransferFails s j a rest →
    ∃ t, exec (.fill color) s = .next t ∧
      EndedWith t .transferError ⟨some .fill, none, some .transfer, .transfer ((windowTransfers s.cfg)[j])⟩ ∧
      t.drvState = .ready ∧ BusReleased t ∧ t.txIn = rest ∧
      (txEvents t.events).length = (txEvents s.events).length + j + 1 ∧ SameDisplayRegs s t ∧
      (NoHalfPixel s → SameGram s t) ∧ SameDecoder s t ∧ SameOtherInputs s t)

/-! ## DECODE_BMP -/

/-- DECODE_BMP of a source that does not open (R181): ResourceNotFoundError with the handle, no transfer, no read; a stream
left open is closed by the abort sequence (R216). No byte is sent, and GRAM stays but for a half pixel's cell (93 I2). -/
def Obligations.DecodeSourceMissing : Prop :=
  ∀ (h : Byte) (s : State) (opens : List Bool), s.drvState = .ready → s.decSrcOpen = false →
    s.busSel = s.streamOpen → s.openIn = false :: opens →
    ∃ t, exec (.decodeBmp h) s = .next t ∧ EndedWith t .resourceNotFoundError ⟨some .decodeBmp, some h, none, .none⟩ ∧
      t.events = s.events ++ [.srcOpen h false] ++ releaseEvents s ∧ t.drvState = .ready ∧ BusReleased t ∧
      t.ctl = s.ctl ∧ (NoHalfPixel s → SameGram s t) ∧ SameDecoder s t ∧ t.openIn = opens ∧ t.txIn = s.txIn ∧
      t.readIn = s.readIn

/-- DECODE_BMP of a source whose header it rejects, for each reason in the order of R213 (R182, R184, R185, R187): the code,
the reason and the values found; one header read, no transfer, the source closed. `HDR` takes the header of an answer that is
long enough and keeps its bytes on any other (R30, R182), the row buffers keep theirs (R31), and GRAM stays but for a half
pixel's cell (93 I2). -/
def Obligations.DecodeHeaderRejected : Prop :=
  ∀ (h : Byte) (s : State) (opens : List Bool) (ans : SrcAns) (reads : List SrcAns) (code : StCode)
    (reason : Option Reason) (detail : Detail),
    s.drvState = .ready → s.cfg.wf = true → s.busSel = s.streamOpen → s.openIn = true :: opens → s.readIn = ans :: reads →
    headerVerdict s.cfg ans = some (code, reason, detail) →
    ∃ t, exec (.decodeBmp h) s = .next t ∧ EndedWith t code ⟨some .decodeBmp, some h, reason, detail⟩ ∧
      t.events = s.events ++ [.srcOpen h true, .srcRead 0 s.cfg.headerSize (readAnswer s.cfg.headerSize ans)] ++
        releaseEvents s ++ [.srcClose] ∧
      t.drvState = .ready ∧ BusReleased t ∧ t.decSrcOpen = false ∧ t.ctl = s.ctl ∧ (NoHalfPixel s → SameGram s t) ∧
      t.openIn = opens ∧ t.readIn = reads ∧ t.txIn = s.txIn ∧ t.inbuf = s.inbuf ∧ t.outbuf = s.outbuf ∧
      (∀ bs, ans = .data bs → s.cfg.headerSize ≤ bs.length → ∀ i, i < s.cfg.headerSize → memRead t.hdr i = bs[i]?) ∧
      ((∀ bs, ans = .data bs → bs.length < s.cfg.headerSize) → t.hdr = s.hdr ∧ SameDecValues s t)

/-- DECODE_BMP of an accepted image with every answer good (R181, R186-R191): the window at the origin with the clipped
size, the converted rows top to bottom, each after its one source read, line by line (R111), with no `Wait` (R247), and on the
bus view; the decoder registers as their rules give them. -/
def Obligations.DecodeCompletes : Prop :=
  ∀ (h : Byte) (s : State) (opens : List Bool) (hdr : List Byte) (rows : Nat → List Byte) (reads : List SrcAns)
    (cancels : List Bool) (rest : List TxAns),
    s.drvState = .ready → s.cfg.wf = true → s.busSel = s.streamOpen → s.openIn = true :: opens →
    headerAccepted s.cfg hdr → RowsAnswered s.cfg hdr rows (imageHeight s.cfg hdr) →
    s.readIn = sourceAnswers hdr rows (imageHeight s.cfg hdr) reads →
    s.cancelIn = List.replicate (imageHeight s.cfg hdr - 1) false ++ cancels →
    TransfersOk s (11 + 2 * imageWidth s.cfg hdr * imageHeight s.cfg hdr) rest →
    ∃ t, exec (.decodeBmp h) s = .next t ∧ ReturnedOk t ∧
      t.events = s.events ++ [.srcOpen h true, .srcRead 0 s.cfg.headerSize (.ok (hdr.take s.cfg.headerSize))] ++
        releaseEvents s ++ windowEvents s.cfg 0 0 (lastImageColumn s.cfg hdr) (lastImageRow s.cfg hdr) ++
        rowsEvents s.cfg hdr rows (imageHeight s.cfg hdr) ++ [.pinCs s.cfg.csActive.opposite, .srcClose] ∧
      t.busView = s.busView ++ releaseItems s ++
        windowItems s.cfg 0 0 (lastImageColumn s.cfg hdr) (lastImageRow s.cfg hdr) ++
        (rowsStream s.cfg.swapRb (imageWidth s.cfg hdr) (imageHeight s.cfg hdr) rows).map itemD ++ [.desel] ∧
      t.drvState = .ready ∧ BusReleased t ∧ t.dc = .data ∧ t.rstLvl = s.rstLvl ∧
      t.decSrcW = headerWidth hdr ∧ t.decSrcH = headerHeight hdr ∧ t.decBpp = 24 ∧ t.decW = imageWidth s.cfg hdr ∧
      t.decH = imageHeight s.cfg hdr ∧ t.decRowSize = imageRowSize hdr ∧ t.decRow = imageHeight s.cfg hdr - 1 ∧
      t.decSrcOpen = false ∧ WindowIs t 0 0 (lastImageColumn s.cfg hdr) (lastImageRow s.cfg hdr) ∧ SameDisplayRegs s t ∧
      t.cfg = s.cfg ∧ t.openIn = opens ∧ t.readIn = reads ∧ t.cancelIn = cancels ∧ t.txIn = rest ∧ t.claimIn = s.claimIn ∧
      t.input = s.input

/-- A completed DECODE_BMP reads the source in one pass (R181, R188, R196): one open, one header read, one read of a whole
stored row for each output row from the top of the image down, one close. -/
def Obligations.DecodeSinglePass : Prop :=
  ∀ (h : Byte) (s : State) (opens : List Bool) (hdr : List Byte) (rows : Nat → List Byte) (reads : List SrcAns)
    (cancels : List Bool) (rest : List TxAns),
    s.drvState = .ready → s.cfg.wf = true → s.busSel = s.streamOpen → s.openIn = true :: opens →
    headerAccepted s.cfg hdr → RowsAnswered s.cfg hdr rows (imageHeight s.cfg hdr) →
    s.readIn = sourceAnswers hdr rows (imageHeight s.cfg hdr) reads →
    s.cancelIn = List.replicate (imageHeight s.cfg hdr - 1) false ++ cancels →
    TransfersOk s (11 + 2 * imageWidth s.cfg hdr * imageHeight s.cfg hdr) rest →
    ∃ t, exec (.decodeBmp h) s = .next t ∧ t.stCode = .ok ∧
      sourceEvents t.events =
        sourceEvents s.events ++ decodeSourceEvents s.cfg h hdr rows (imageHeight s.cfg hdr)

/-- The image on the panel (R191): cell `(i, r)` holds the converted pixel `i` of the image's row `r` from the top, for the
clipped size, and no other cell changes. -/
def Obligations.DecodeDrawsImage : Prop :=
  ∀ (h : Byte) (s : State) (opens : List Bool) (hdr : List Byte) (rows : Nat → List Byte) (reads : List SrcAns)
    (cancels : List Bool) (rest : List TxAns),
    s.drvState = .ready → s.cfg.wf = true → s.busSel = s.streamOpen → NoHalfPixel s → sixteenBit s = true →
    s.openIn = true :: opens → headerAccepted s.cfg hdr → RowsAnswered s.cfg hdr rows (imageHeight s.cfg hdr) →
    s.readIn = sourceAnswers hdr rows (imageHeight s.cfg hdr) reads →
    s.cancelIn = List.replicate (imageHeight s.cfg hdr - 1) false ++ cancels →
    TransfersOk s (11 + 2 * imageWidth s.cfg hdr * imageHeight s.cfg hdr) rest →
    ∃ t, exec (.decodeBmp h) s = .next t ∧ t.stCode = .ok ∧
      (∀ i r, i < imageWidth s.cfg hdr → r < imageHeight s.cfg hdr →
        gramPixel t i r = rowPixel s.cfg.swapRb (rows r) i) ∧
      (∀ a, (∀ i r, i < imageWidth s.cfg hdr → r < imageHeight s.cfg hdr →
          a ≠ gramAddr i r ∧ a ≠ gramAddr i r + 1) → gramByte t a = gramByte s a)

/-- DECODE_BMP cancelled after row `q` (R192): `Cancelled` with the rows written, which stay on the panel; the stream and
the source closed; no cell outside the image's window changes (90_conflicts.md C7), and with 16-bit color none of a later
row. -/
def Obligations.DecodeCancelled : Prop :=
  ∀ (h : Byte) (s : State) (opens : List Bool) (hdr : List Byte) (rows : Nat → List Byte) (q : Nat) (reads : List SrcAns)
    (cancels : List Bool) (rest : List TxAns),
    s.drvState = .ready → s.cfg.wf = true → s.busSel = s.streamOpen → s.openIn = true :: opens →
    headerAccepted s.cfg hdr → q + 1 < imageHeight s.cfg hdr → RowsAnswered s.cfg hdr rows (q + 1) →
    s.readIn = sourceAnswers hdr rows (q + 1) reads → s.cancelIn = List.replicate q false ++ true :: cancels →
    TransfersOk s (11 + 2 * imageWidth s.cfg hdr * (q + 1)) rest →
    ∃ t, exec (.decodeBmp h) s = .next t ∧
      EndedWith t .cancelled ⟨some .decodeBmp, some h, none, .rowsWritten (q + 1)⟩ ∧
      t.busView = s.busView ++ releaseItems s ++
        windowItems s.cfg 0 0 (lastImageColumn s.cfg hdr) (lastImageRow s.cfg hdr) ++
        (rowsStream s.cfg.swapRb (imageWidth s.cfg hdr) (q + 1) rows).map itemD ++ [.desel] ∧
      t.drvState = .ready ∧ BusReleased t ∧ t.decSrcOpen = false ∧ t.cancelIn = cancels ∧ t.readIn = reads ∧
      t.txIn = rest ∧
      (sixteenBit s = true → ∀ i r, i < imageWidth s.cfg hdr → r < q + 1 →
        gramPixel t i r = rowPixel s.cfg.swapRb (rows r) i) ∧
      (NoHalfPixel s →
        SameButFirstCells s t (imageWidth s.cfg hdr) (imageWidth s.cfg hdr * imageHeight s.cfg hdr)) ∧
      (NoHalfPixel s → sixteenBit s = true →
        SameButFirstCells s t (imageWidth s.cfg hdr) (imageWidth s.cfg hdr * (q + 1)))

/-- DECODE_BMP with the read of row `q` failing or short (R188, R193): SourceReadError with row, offset and length; the rows
before it stay on the panel; the stream and the source closed; no cell outside the image's window changes (90_conflicts.md
C7), with 16-bit color none of row `q` or a later one, and none at all where `q = 0`. -/
def Obligations.DecodeRowReadError : Prop :=
  ∀ (h : Byte) (s : State) (opens : List Bool) (hdr : List Byte) (rows : Nat → List Byte) (q : Nat) (bad : SrcAns)
    (reads : List SrcAns) (cancels : List Bool) (rest : List TxAns),
    s.drvState = .ready → s.cfg.wf = true → s.busSel = s.streamOpen → s.openIn = true :: opens →
    headerAccepted s.cfg hdr → q < imageHeight s.cfg hdr → RowsAnswered s.cfg hdr rows q →
    (∀ bs, bad = .data bs → bs.length < imageRowSize hdr) →
    s.readIn = sourceAnswers hdr rows q (bad :: reads) → s.cancelIn = List.replicate q false ++ cancels →
    TransfersOk s (11 + 2 * imageWidth s.cfg hdr * q) rest →
    ∃ t, exec (.decodeBmp h) s = .next t ∧
      EndedWith t .sourceReadError
        ⟨some .decodeBmp, some h, none, .sourceRead (some q) (imageRowOffset s.cfg hdr q) (imageRowSize hdr)⟩ ∧
      t.busView = s.busView ++ releaseItems s ++
        windowItems s.cfg 0 0 (lastImageColumn s.cfg hdr) (lastImageRow s.cfg hdr) ++
        (rowsStream s.cfg.swapRb (imageWidth s.cfg hdr) q rows).map itemD ++ [.desel] ∧
      t.drvState = .ready ∧ BusReleased t ∧ t.decSrcOpen = false ∧ t.readIn = reads ∧ t.txIn = rest ∧
      (sixteenBit s = true → ∀ i r, i < imageWidth s.cfg hdr → r < q →
        gramPixel t i r = rowPixel s.cfg.swapRb (rows r) i) ∧
      (NoHalfPixel s →
        SameButFirstCells s t (imageWidth s.cfg hdr) (imageWidth s.cfg hdr * imageHeight s.cfg hdr)) ∧
      (NoHalfPixel s → (sixteenBit s = true ∨ q = 0) →
        SameButFirstCells s t (imageWidth s.cfg hdr) (imageWidth s.cfg hdr * q))

/-- DECODE_BMP with stream byte `j` of row `q` failing (R106, R190, R193): TransferError with the byte's index in the row,
no later read or transfer, the stream and the source closed, the rows before it on the panel, no cell outside the image's
window changed (90_conflicts.md C7), and with 16-bit color none after the failing pixel. And with transfer `j` of its
window body failing (R143, R181 "TransferError for the window"): TransferError naming that frame and byte, no row read, the
source closed, GRAM as before. -/
def Obligations.DecodeRowTransferFailure : Prop :=
  (∀ (h : Byte) (s : State) (opens : List Bool) (hdr : List Byte) (rows : Nat → List Byte) (q j : Nat) (a : TxAns)
    (reads : List SrcAns) (cancels : List Bool) (rest : List TxAns),
    s.drvState = .ready → s.cfg.wf = true → s.busSel = s.streamOpen → s.openIn = true :: opens →
    headerAccepted s.cfg hdr → q < imageHeight s.cfg hdr → j < 2 * imageWidth s.cfg hdr →
    RowsAnswered s.cfg hdr rows (q + 1) → s.readIn = sourceAnswers hdr rows (q + 1) reads →
    s.cancelIn = List.replicate q false ++ cancels →
    TransferFails s (11 + 2 * imageWidth s.cfg hdr * q + j) a rest →
    ∃ t, exec (.decodeBmp h) s = .next t ∧
      EndedWith t .transferError ⟨some .decodeBmp, some h, some .transfer, .transfer ⟨.stream, none, j⟩⟩ ∧
      t.drvState = .ready ∧ BusReleased t ∧ t.decSrcOpen = false ∧ t.readIn = reads ∧ t.txIn = rest ∧
      t.cancelIn = cancels ∧
      (txEvents t.events).length = (txEvents s.events).length + 11 + 2 * imageWidth s.cfg hdr * q + j + 1 ∧
      (sixteenBit s = true → ∀ i r, i < imageWidth s.cfg hdr → r < q →
        gramPixel t i r = rowPixel s.cfg.swapRb (rows r) i) ∧
      (NoHalfPixel s →
        SameButFirstCells s t (imageWidth s.cfg hdr) (imageWidth s.cfg hdr * imageHeight s.cfg hdr)) ∧
      (NoHalfPixel s → sixteenBit s = true →
        SameButFirstCells s t (imageWidth s.cfg hdr) (imageWidth s.cfg hdr * q + j / 2 + 1))) ∧
  (∀ (h : Byte) (s : State) (opens : List Bool) (hdr : List Byte) (j : Nat) (hj : j < (windowTransfers s.cfg).length)
    (a : TxAns) (reads : List SrcAns) (rest : List TxAns),
    s.drvState = .ready → s.cfg.wf = true → s.busSel = s.streamOpen → s.openIn = true :: opens →
    headerAccepted s.cfg hdr → s.readIn = .data hdr :: reads → TransferFails s j a rest →
    ∃ t, exec (.decodeBmp h) s = .next t ∧
      EndedWith t .transferError ⟨some .decodeBmp, some h, some .transfer, .transfer ((windowTransfers s.cfg)[j])⟩ ∧
      t.drvState = .ready ∧ BusReleased t ∧ t.decSrcOpen = false ∧ t.openIn = opens ∧ t.readIn = reads ∧
      t.cancelIn = s.cancelIn ∧ t.txIn = rest ∧
      (txEvents t.events).length = (txEvents s.events).length + j + 1 ∧ SameDisplayRegs s t ∧
      (NoHalfPixel s → SameGram s t))

/-! ## The controller's commands -/

/-- SWRESET (R122): every controller register that R37 gives a reset value is at it, and nothing of TFTCORE changes. -/
def Obligations.SwresetCompletes : Prop :=
  ∀ s : State, ∃ t, exec .swreset s = .next t ∧ OnlyController s t ∧ t.ctl.cmd = none ∧ t.ctl.argi = 0 ∧
    t.ctl.colmodRecv = false ∧ t.ctl.sleep = true ∧ t.ctl.disp = false ∧ t.ctl.wp = 0 ∧ t.ctl.hi = none ∧ t.gram = []

/-- SLPOUT and DISPON (R123, R129): the one bit each sets, the command context each begins (R121), and no other register
but a half pixel, which a command byte discards (R131), and a window whose payload the command byte cuts short (R124), which
`WholeContext` rules out. That the discarded half pixel's cell keeps its value (`SameGram`) is the model's choice of log 38. -/
def Obligations.SlpoutDisponComplete : Prop :=
  ∀ s : State, s.cfg.wf = true →
    (∃ t, exec .slpout s = .next t ∧ OnlyController s t ∧ SameGram s t ∧ t.ctl.sleep = false ∧ t.ctl.disp = s.ctl.disp ∧
      t.ctl.cmd = some s.cfg.cmdSlpout ∧ SameArgs s t ∧ t.ctl.argi = 0 ∧ t.ctl.hi = none ∧ t.ctl.wp = s.ctl.wp ∧
      t.ctl.madctl = s.ctl.madctl ∧ t.ctl.colmod = s.ctl.colmod ∧ t.ctl.colmodRecv = s.ctl.colmodRecv ∧
      (WholeContext s → WindowIs t s.ctl.xs s.ctl.ys s.ctl.xe s.ctl.ye)) ∧
    (∃ t, exec .dispon s = .next t ∧ OnlyController s t ∧ SameGram s t ∧ t.ctl.disp = true ∧ t.ctl.sleep = s.ctl.sleep ∧
      t.ctl.cmd = some s.cfg.cmdDispon ∧ SameArgs s t ∧ t.ctl.argi = 0 ∧ t.ctl.hi = none ∧ t.ctl.wp = s.ctl.wp ∧
      t.ctl.madctl = s.ctl.madctl ∧ t.ctl.colmod = s.ctl.colmod ∧ t.ctl.colmodRecv = s.ctl.colmodRecv ∧
      (WholeContext s → WindowIs t s.ctl.xs s.ctl.ys s.ctl.xe s.ctl.ye))

/-- COLMOD and MADCTL (R127, R128): the payload byte goes unchanged into the register of its command, and no other register
changes but those of the command context (R121), a half pixel, which the command byte discards (R131), and a window whose
payload the command byte cuts short (R124), which `WholeContext` rules out. That the discarded half pixel's cell keeps its value
(`SameGram`) is the model's choice of log 38. -/
def Obligations.ColmodMadctlComplete : Prop :=
  ∀ (v : Byte) (s : State), s.cfg.wf = true →
    (∃ t, exec (.colmod v) s = .next t ∧ OnlyController s t ∧ SameGram s t ∧ t.ctl.colmod = v ∧ t.ctl.colmodRecv = true ∧
      t.ctl.madctl = s.ctl.madctl ∧ t.ctl.sleep = s.ctl.sleep ∧ t.ctl.disp = s.ctl.disp ∧
      t.ctl.cmd = some s.cfg.cmdColmod ∧ SameArgs s t ∧ t.ctl.argi = 1 ∧ t.ctl.hi = none ∧ t.ctl.wp = s.ctl.wp ∧
      (WholeContext s → WindowIs t s.ctl.xs s.ctl.ys s.ctl.xe s.ctl.ye)) ∧
    (∃ t, exec (.madctl v) s = .next t ∧ OnlyController s t ∧ SameGram s t ∧ t.ctl.madctl = v ∧
      t.ctl.colmod = s.ctl.colmod ∧ t.ctl.colmodRecv = s.ctl.colmodRecv ∧ t.ctl.sleep = s.ctl.sleep ∧
      t.ctl.disp = s.ctl.disp ∧ t.ctl.cmd = some s.cfg.cmdMadctl ∧ SameArgs s t ∧ t.ctl.argi = 1 ∧ t.ctl.hi = none ∧
      t.ctl.wp = s.ctl.wp ∧ (WholeContext s → WindowIs t s.ctl.xs s.ctl.ys s.ctl.xe s.ctl.ye))

/-- CASET and RASET (R124, R125): the four payload bytes make the column or row bounds, high bytes first; the other bounds
stay unless the command byte cuts their payload short (R124), which `WholeContext` rules out, a half pixel is discarded
(R131), and no cell of GRAM changes, the discarded half pixel's cell included (the model's choice of log 38). -/
def Obligations.WindowCommandsComplete : Prop :=
  ∀ (first last : Half) (s : State), s.cfg.wf = true →
    (∃ t, exec (.caset first last) s = .next t ∧ OnlyController s t ∧ SameGram s t ∧ SameDisplayRegs s t ∧
      t.ctl.xs = first ∧ t.ctl.xe = last ∧ ArgsAre t (hiByte first) (loByte first) (hiByte last) (loByte last) ∧
      t.ctl.argi = 4 ∧ t.ctl.cmd = some s.cfg.cmdCaset ∧ t.ctl.hi = none ∧
      t.ctl.wp = s.ctl.wp ∧ (WholeContext s → t.ctl.ys = s.ctl.ys ∧ t.ctl.ye = s.ctl.ye)) ∧
    (∃ t, exec (.raset first last) s = .next t ∧ OnlyController s t ∧ SameGram s t ∧ SameDisplayRegs s t ∧
      t.ctl.ys = first ∧ t.ctl.ye = last ∧ ArgsAre t (hiByte first) (loByte first) (hiByte last) (loByte last) ∧
      t.ctl.argi = 4 ∧ t.ctl.cmd = some s.cfg.cmdRaset ∧ t.ctl.hi = none ∧
      t.ctl.wp = s.ctl.wp ∧ (WholeContext s → t.ctl.xs = s.ctl.xs ∧ t.ctl.xe = s.ctl.xe))

/-- RAMWR and a stream of any length, into a window of the panel or with no effect the spec gives (R126, I7): it runs,
changes nothing of TFTCORE and of the controller only the context, the count and the half pixel, and no cell outside the
window, an overrun included. -/
def Obligations.RamwrCompletes : Prop :=
  ∀ (stream : List Byte) (s : State), s.cfg.wf = true → (windowInPanel s ∨ streamDefined s = false) → WholeContext s →
    ∃ t, exec (.ramwr stream) s = .next t ∧ OnlyController s t ∧ SameDisplayRegs s t ∧
      WindowIs t s.ctl.xs s.ctl.ys s.ctl.xe s.ctl.ye ∧ SameArgs s t ∧ t.ctl.cmd = some s.cfg.cmdRamwr ∧ t.ctl.argi = 0 ∧
      (windowFormed s.ctl = true → SameOutsideWindow s t)

/-- RAMWR with a word that would land outside the panel stops: GRAM has no such cell (R50, R52; the model's choice of log
11). No host program reaches it (`HostOperationsEnd`). -/
def Obligations.RamwrOutsidePanelFaults : Prop :=
  ∀ (h l : Byte) (stream : List Byte) (s : State), s.cfg.wf = true → WholeContext s → streamDefined s = true →
    (s.cfg.panelW ≤ s.ctl.xs.toNat ∨ s.cfg.panelH ≤ s.ctl.ys.toNat) →
    exec (.ramwr (h :: l :: stream)) s = .fault (.gramOutsidePanel s.ctl.xs.toNat s.ctl.ys.toNat)

/-- RAMWR and a stream no longer than its window (R79, R126): word `k` lands in the window's cell `k` in row-major order,
the cells after the last whole word are unchanged, and so is every cell outside the window. That an older half pixel, which the
command byte discards (R131), leaves its cell unchanged is the model's choice of log 38. -/
def Obligations.RamwrFillsWindow : Prop :=
  ∀ (stream : List Byte) (s : State), s.cfg.wf = true → windowInPanel s → WholeContext s → sixteenBit s = true →
    stream.length / 2 ≤ windowCount s.ctl →
    ∃ t, exec (.ramwr stream) s = .next t ∧ t.ctl.wp = stream.length / 2 ∧
      t.ctl.hi = (stream.drop (2 * (stream.length / 2))).head? ∧
      (∀ k, k < stream.length / 2 → gramPixel t (pixelX s.ctl k) (pixelY s.ctl k) = streamPixel stream k) ∧
      (∀ a, (∀ k, k < stream.length / 2 → ¬ isPixelByte s.ctl k a) → gramByte t a = gramByte s a)
end

