-- ==== Sys2Proof/Laws/State.lean ====
section
/-! SUPPORT. One lemma per field per update of the state, each true by rfl, so that no proof unfolds a record update. -/

namespace Sys2Proof.Machine

/-! ### `selectBus` -/

@[simp] theorem selectBus_cfg (s : State) : (selectBus s).cfg = s.cfg := rfl
@[simp] theorem selectBus_drvState (s : State) : (selectBus s).drvState = s.drvState := rfl
@[simp] theorem selectBus_busSel (s : State) : (selectBus s).busSel = true := rfl
@[simp] theorem selectBus_dc (s : State) : (selectBus s).dc = s.dc := rfl
@[simp] theorem selectBus_streamOpen (s : State) : (selectBus s).streamOpen = s.streamOpen := rfl
@[simp] theorem selectBus_rstLvl (s : State) : (selectBus s).rstLvl = s.rstLvl := rfl
@[simp] theorem selectBus_seq (s : State) : (selectBus s).seq = s.seq := rfl
@[simp] theorem selectBus_decSrcW (s : State) : (selectBus s).decSrcW = s.decSrcW := rfl
@[simp] theorem selectBus_decSrcH (s : State) : (selectBus s).decSrcH = s.decSrcH := rfl
@[simp] theorem selectBus_decBpp (s : State) : (selectBus s).decBpp = s.decBpp := rfl
@[simp] theorem selectBus_decW (s : State) : (selectBus s).decW = s.decW := rfl
@[simp] theorem selectBus_decH (s : State) : (selectBus s).decH = s.decH := rfl
@[simp] theorem selectBus_decRowSize (s : State) : (selectBus s).decRowSize = s.decRowSize := rfl
@[simp] theorem selectBus_decRow (s : State) : (selectBus s).decRow = s.decRow := rfl
@[simp] theorem selectBus_decSrcOpen (s : State) : (selectBus s).decSrcOpen = s.decSrcOpen := rfl
@[simp] theorem selectBus_decWritten (s : State) : (selectBus s).decWritten = s.decWritten := rfl
@[simp] theorem selectBus_hdr (s : State) : (selectBus s).hdr = s.hdr := rfl
@[simp] theorem selectBus_inbuf (s : State) : (selectBus s).inbuf = s.inbuf := rfl
@[simp] theorem selectBus_outbuf (s : State) : (selectBus s).outbuf = s.outbuf := rfl
@[simp] theorem selectBus_hdrWritten (s : State) : (selectBus s).hdrWritten = s.hdrWritten := rfl
@[simp] theorem selectBus_inbufWritten (s : State) : (selectBus s).inbufWritten = s.inbufWritten := rfl
@[simp] theorem selectBus_outbufWritten (s : State) : (selectBus s).outbufWritten = s.outbufWritten := rfl
@[simp] theorem selectBus_stCode (s : State) : (selectBus s).stCode = s.stCode := rfl
@[simp] theorem selectBus_stInfo (s : State) : (selectBus s).stInfo = s.stInfo := rfl
@[simp] theorem selectBus_result (s : State) : (selectBus s).result = s.result := rfl
@[simp] theorem selectBus_ctl (s : State) : (selectBus s).ctl = s.ctl := rfl
@[simp] theorem selectBus_gram (s : State) : (selectBus s).gram = s.gram := rfl
@[simp] theorem selectBus_gramEpoch (s : State) : (selectBus s).gramEpoch = s.gramEpoch := rfl
@[simp] theorem selectBus_trace (s : State) : (selectBus s).trace = .pinCs s.cfg.csActive :: s.trace := rfl
@[simp] theorem selectBus_busDriver (s : State) : (selectBus s).busDriver = s.busDriver := rfl
@[simp] theorem selectBus_input (s : State) : (selectBus s).input = s.input := rfl
@[simp] theorem selectBus_newInstance (s : State) : (selectBus s).newInstance = s.newInstance := rfl
@[simp] theorem selectBus_claimIn (s : State) : (selectBus s).claimIn = s.claimIn := rfl
@[simp] theorem selectBus_txIn (s : State) : (selectBus s).txIn = s.txIn := rfl
@[simp] theorem selectBus_openIn (s : State) : (selectBus s).openIn = s.openIn := rfl
@[simp] theorem selectBus_readIn (s : State) : (selectBus s).readIn = s.readIn := rfl
@[simp] theorem selectBus_cancelIn (s : State) : (selectBus s).cancelIn = s.cancelIn := rfl
@[simp] theorem selectBus_freeCtr (s : State) : (selectBus s).freeCtr = s.freeCtr := rfl

/-! ### `driveCmd` -/

@[simp] theorem driveCmd_cfg (s : State) : (driveCmd s).cfg = s.cfg := rfl
@[simp] theorem driveCmd_drvState (s : State) : (driveCmd s).drvState = s.drvState := rfl
@[simp] theorem driveCmd_busSel (s : State) : (driveCmd s).busSel = s.busSel := rfl
@[simp] theorem driveCmd_dc (s : State) : (driveCmd s).dc = .cmd := rfl
@[simp] theorem driveCmd_streamOpen (s : State) : (driveCmd s).streamOpen = s.streamOpen := rfl
@[simp] theorem driveCmd_rstLvl (s : State) : (driveCmd s).rstLvl = s.rstLvl := rfl
@[simp] theorem driveCmd_seq (s : State) : (driveCmd s).seq = s.seq := rfl
@[simp] theorem driveCmd_decSrcW (s : State) : (driveCmd s).decSrcW = s.decSrcW := rfl
@[simp] theorem driveCmd_decSrcH (s : State) : (driveCmd s).decSrcH = s.decSrcH := rfl
@[simp] theorem driveCmd_decBpp (s : State) : (driveCmd s).decBpp = s.decBpp := rfl
@[simp] theorem driveCmd_decW (s : State) : (driveCmd s).decW = s.decW := rfl
@[simp] theorem driveCmd_decH (s : State) : (driveCmd s).decH = s.decH := rfl
@[simp] theorem driveCmd_decRowSize (s : State) : (driveCmd s).decRowSize = s.decRowSize := rfl
@[simp] theorem driveCmd_decRow (s : State) : (driveCmd s).decRow = s.decRow := rfl
@[simp] theorem driveCmd_decSrcOpen (s : State) : (driveCmd s).decSrcOpen = s.decSrcOpen := rfl
@[simp] theorem driveCmd_decWritten (s : State) : (driveCmd s).decWritten = s.decWritten := rfl
@[simp] theorem driveCmd_hdr (s : State) : (driveCmd s).hdr = s.hdr := rfl
@[simp] theorem driveCmd_inbuf (s : State) : (driveCmd s).inbuf = s.inbuf := rfl
@[simp] theorem driveCmd_outbuf (s : State) : (driveCmd s).outbuf = s.outbuf := rfl
@[simp] theorem driveCmd_hdrWritten (s : State) : (driveCmd s).hdrWritten = s.hdrWritten := rfl
@[simp] theorem driveCmd_inbufWritten (s : State) : (driveCmd s).inbufWritten = s.inbufWritten := rfl
@[simp] theorem driveCmd_outbufWritten (s : State) : (driveCmd s).outbufWritten = s.outbufWritten := rfl
@[simp] theorem driveCmd_stCode (s : State) : (driveCmd s).stCode = s.stCode := rfl
@[simp] theorem driveCmd_stInfo (s : State) : (driveCmd s).stInfo = s.stInfo := rfl
@[simp] theorem driveCmd_result (s : State) : (driveCmd s).result = s.result := rfl
@[simp] theorem driveCmd_ctl (s : State) : (driveCmd s).ctl = s.ctl := rfl
@[simp] theorem driveCmd_gram (s : State) : (driveCmd s).gram = s.gram := rfl
@[simp] theorem driveCmd_gramEpoch (s : State) : (driveCmd s).gramEpoch = s.gramEpoch := rfl
@[simp] theorem driveCmd_trace (s : State) : (driveCmd s).trace = .pinDc s.cfg.dcCmd :: s.trace := rfl
@[simp] theorem driveCmd_busDriver (s : State) : (driveCmd s).busDriver = s.busDriver := rfl
@[simp] theorem driveCmd_input (s : State) : (driveCmd s).input = s.input := rfl
@[simp] theorem driveCmd_newInstance (s : State) : (driveCmd s).newInstance = s.newInstance := rfl
@[simp] theorem driveCmd_claimIn (s : State) : (driveCmd s).claimIn = s.claimIn := rfl
@[simp] theorem driveCmd_txIn (s : State) : (driveCmd s).txIn = s.txIn := rfl
@[simp] theorem driveCmd_openIn (s : State) : (driveCmd s).openIn = s.openIn := rfl
@[simp] theorem driveCmd_readIn (s : State) : (driveCmd s).readIn = s.readIn := rfl
@[simp] theorem driveCmd_cancelIn (s : State) : (driveCmd s).cancelIn = s.cancelIn := rfl
@[simp] theorem driveCmd_freeCtr (s : State) : (driveCmd s).freeCtr = s.freeCtr := rfl

/-! ### `driveData` -/

@[simp] theorem driveData_cfg (s : State) : (driveData s).cfg = s.cfg := rfl
@[simp] theorem driveData_drvState (s : State) : (driveData s).drvState = s.drvState := rfl
@[simp] theorem driveData_busSel (s : State) : (driveData s).busSel = s.busSel := rfl
@[simp] theorem driveData_dc (s : State) : (driveData s).dc = .data := rfl
@[simp] theorem driveData_streamOpen (s : State) : (driveData s).streamOpen = s.streamOpen := rfl
@[simp] theorem driveData_rstLvl (s : State) : (driveData s).rstLvl = s.rstLvl := rfl
@[simp] theorem driveData_seq (s : State) : (driveData s).seq = s.seq := rfl
@[simp] theorem driveData_decSrcW (s : State) : (driveData s).decSrcW = s.decSrcW := rfl
@[simp] theorem driveData_decSrcH (s : State) : (driveData s).decSrcH = s.decSrcH := rfl
@[simp] theorem driveData_decBpp (s : State) : (driveData s).decBpp = s.decBpp := rfl
@[simp] theorem driveData_decW (s : State) : (driveData s).decW = s.decW := rfl
@[simp] theorem driveData_decH (s : State) : (driveData s).decH = s.decH := rfl
@[simp] theorem driveData_decRowSize (s : State) : (driveData s).decRowSize = s.decRowSize := rfl
@[simp] theorem driveData_decRow (s : State) : (driveData s).decRow = s.decRow := rfl
@[simp] theorem driveData_decSrcOpen (s : State) : (driveData s).decSrcOpen = s.decSrcOpen := rfl
@[simp] theorem driveData_decWritten (s : State) : (driveData s).decWritten = s.decWritten := rfl
@[simp] theorem driveData_hdr (s : State) : (driveData s).hdr = s.hdr := rfl
@[simp] theorem driveData_inbuf (s : State) : (driveData s).inbuf = s.inbuf := rfl
@[simp] theorem driveData_outbuf (s : State) : (driveData s).outbuf = s.outbuf := rfl
@[simp] theorem driveData_hdrWritten (s : State) : (driveData s).hdrWritten = s.hdrWritten := rfl
@[simp] theorem driveData_inbufWritten (s : State) : (driveData s).inbufWritten = s.inbufWritten := rfl
@[simp] theorem driveData_outbufWritten (s : State) : (driveData s).outbufWritten = s.outbufWritten := rfl
@[simp] theorem driveData_stCode (s : State) : (driveData s).stCode = s.stCode := rfl
@[simp] theorem driveData_stInfo (s : State) : (driveData s).stInfo = s.stInfo := rfl
@[simp] theorem driveData_result (s : State) : (driveData s).result = s.result := rfl
@[simp] theorem driveData_ctl (s : State) : (driveData s).ctl = s.ctl := rfl
@[simp] theorem driveData_gram (s : State) : (driveData s).gram = s.gram := rfl
@[simp] theorem driveData_gramEpoch (s : State) : (driveData s).gramEpoch = s.gramEpoch := rfl
@[simp] theorem driveData_trace (s : State) : (driveData s).trace = .pinDc s.cfg.dcCmd.opposite :: s.trace := rfl
@[simp] theorem driveData_busDriver (s : State) : (driveData s).busDriver = s.busDriver := rfl
@[simp] theorem driveData_input (s : State) : (driveData s).input = s.input := rfl
@[simp] theorem driveData_newInstance (s : State) : (driveData s).newInstance = s.newInstance := rfl
@[simp] theorem driveData_claimIn (s : State) : (driveData s).claimIn = s.claimIn := rfl
@[simp] theorem driveData_txIn (s : State) : (driveData s).txIn = s.txIn := rfl
@[simp] theorem driveData_openIn (s : State) : (driveData s).openIn = s.openIn := rfl
@[simp] theorem driveData_readIn (s : State) : (driveData s).readIn = s.readIn := rfl
@[simp] theorem driveData_cancelIn (s : State) : (driveData s).cancelIn = s.cancelIn := rfl
@[simp] theorem driveData_freeCtr (s : State) : (driveData s).freeCtr = s.freeCtr := rfl

/-! ### `releaseBus` -/

@[simp] theorem releaseBus_cfg (s : State) : (releaseBus s).cfg = s.cfg := rfl
@[simp] theorem releaseBus_drvState (s : State) : (releaseBus s).drvState = s.drvState := rfl
@[simp] theorem releaseBus_busSel (s : State) : (releaseBus s).busSel = false := rfl
@[simp] theorem releaseBus_dc (s : State) : (releaseBus s).dc = s.dc := rfl
@[simp] theorem releaseBus_streamOpen (s : State) : (releaseBus s).streamOpen = s.streamOpen := rfl
@[simp] theorem releaseBus_rstLvl (s : State) : (releaseBus s).rstLvl = s.rstLvl := rfl
@[simp] theorem releaseBus_seq (s : State) : (releaseBus s).seq = s.seq := rfl
@[simp] theorem releaseBus_decSrcW (s : State) : (releaseBus s).decSrcW = s.decSrcW := rfl
@[simp] theorem releaseBus_decSrcH (s : State) : (releaseBus s).decSrcH = s.decSrcH := rfl
@[simp] theorem releaseBus_decBpp (s : State) : (releaseBus s).decBpp = s.decBpp := rfl
@[simp] theorem releaseBus_decW (s : State) : (releaseBus s).decW = s.decW := rfl
@[simp] theorem releaseBus_decH (s : State) : (releaseBus s).decH = s.decH := rfl
@[simp] theorem releaseBus_decRowSize (s : State) : (releaseBus s).decRowSize = s.decRowSize := rfl
@[simp] theorem releaseBus_decRow (s : State) : (releaseBus s).decRow = s.decRow := rfl
@[simp] theorem releaseBus_decSrcOpen (s : State) : (releaseBus s).decSrcOpen = s.decSrcOpen := rfl
@[simp] theorem releaseBus_decWritten (s : State) : (releaseBus s).decWritten = s.decWritten := rfl
@[simp] theorem releaseBus_hdr (s : State) : (releaseBus s).hdr = s.hdr := rfl
@[simp] theorem releaseBus_inbuf (s : State) : (releaseBus s).inbuf = s.inbuf := rfl
@[simp] theorem releaseBus_outbuf (s : State) : (releaseBus s).outbuf = s.outbuf := rfl
@[simp] theorem releaseBus_hdrWritten (s : State) : (releaseBus s).hdrWritten = s.hdrWritten := rfl
@[simp] theorem releaseBus_inbufWritten (s : State) : (releaseBus s).inbufWritten = s.inbufWritten := rfl
@[simp] theorem releaseBus_outbufWritten (s : State) : (releaseBus s).outbufWritten = s.outbufWritten := rfl
@[simp] theorem releaseBus_stCode (s : State) : (releaseBus s).stCode = s.stCode := rfl
@[simp] theorem releaseBus_stInfo (s : State) : (releaseBus s).stInfo = s.stInfo := rfl
@[simp] theorem releaseBus_result (s : State) : (releaseBus s).result = s.result := rfl
@[simp] theorem releaseBus_ctl (s : State) : (releaseBus s).ctl = s.ctl := rfl
@[simp] theorem releaseBus_gram (s : State) : (releaseBus s).gram = s.gram := rfl
@[simp] theorem releaseBus_gramEpoch (s : State) : (releaseBus s).gramEpoch = s.gramEpoch := rfl
@[simp] theorem releaseBus_trace (s : State) : (releaseBus s).trace = .pinCs s.cfg.csActive.opposite :: s.trace := rfl
@[simp] theorem releaseBus_busDriver (s : State) : (releaseBus s).busDriver = s.busDriver := rfl
@[simp] theorem releaseBus_input (s : State) : (releaseBus s).input = s.input := rfl
@[simp] theorem releaseBus_newInstance (s : State) : (releaseBus s).newInstance = s.newInstance := rfl
@[simp] theorem releaseBus_claimIn (s : State) : (releaseBus s).claimIn = s.claimIn := rfl
@[simp] theorem releaseBus_txIn (s : State) : (releaseBus s).txIn = s.txIn := rfl
@[simp] theorem releaseBus_openIn (s : State) : (releaseBus s).openIn = s.openIn := rfl
@[simp] theorem releaseBus_readIn (s : State) : (releaseBus s).readIn = s.readIn := rfl
@[simp] theorem releaseBus_cancelIn (s : State) : (releaseBus s).cancelIn = s.cancelIn := rfl
@[simp] theorem releaseBus_freeCtr (s : State) : (releaseBus s).freeCtr = s.freeCtr := rfl

/-! ### `waitFor` -/

@[simp] theorem waitFor_cfg (s : State) (d : Delay) : (waitFor d s).cfg = s.cfg := rfl
@[simp] theorem waitFor_drvState (s : State) (d : Delay) : (waitFor d s).drvState = s.drvState := rfl
@[simp] theorem waitFor_busSel (s : State) (d : Delay) : (waitFor d s).busSel = s.busSel := rfl
@[simp] theorem waitFor_dc (s : State) (d : Delay) : (waitFor d s).dc = s.dc := rfl
@[simp] theorem waitFor_streamOpen (s : State) (d : Delay) : (waitFor d s).streamOpen = s.streamOpen := rfl
@[simp] theorem waitFor_rstLvl (s : State) (d : Delay) : (waitFor d s).rstLvl = s.rstLvl := rfl
@[simp] theorem waitFor_seq (s : State) (d : Delay) : (waitFor d s).seq = s.seq := rfl
@[simp] theorem waitFor_decSrcW (s : State) (d : Delay) : (waitFor d s).decSrcW = s.decSrcW := rfl
@[simp] theorem waitFor_decSrcH (s : State) (d : Delay) : (waitFor d s).decSrcH = s.decSrcH := rfl
@[simp] theorem waitFor_decBpp (s : State) (d : Delay) : (waitFor d s).decBpp = s.decBpp := rfl
@[simp] theorem waitFor_decW (s : State) (d : Delay) : (waitFor d s).decW = s.decW := rfl
@[simp] theorem waitFor_decH (s : State) (d : Delay) : (waitFor d s).decH = s.decH := rfl
@[simp] theorem waitFor_decRowSize (s : State) (d : Delay) : (waitFor d s).decRowSize = s.decRowSize := rfl
@[simp] theorem waitFor_decRow (s : State) (d : Delay) : (waitFor d s).decRow = s.decRow := rfl
@[simp] theorem waitFor_decSrcOpen (s : State) (d : Delay) : (waitFor d s).decSrcOpen = s.decSrcOpen := rfl
@[simp] theorem waitFor_decWritten (s : State) (d : Delay) : (waitFor d s).decWritten = s.decWritten := rfl
@[simp] theorem waitFor_hdr (s : State) (d : Delay) : (waitFor d s).hdr = s.hdr := rfl
@[simp] theorem waitFor_inbuf (s : State) (d : Delay) : (waitFor d s).inbuf = s.inbuf := rfl
@[simp] theorem waitFor_outbuf (s : State) (d : Delay) : (waitFor d s).outbuf = s.outbuf := rfl
@[simp] theorem waitFor_hdrWritten (s : State) (d : Delay) : (waitFor d s).hdrWritten = s.hdrWritten := rfl
@[simp] theorem waitFor_inbufWritten (s : State) (d : Delay) : (waitFor d s).inbufWritten = s.inbufWritten := rfl
@[simp] theorem waitFor_outbufWritten (s : State) (d : Delay) : (waitFor d s).outbufWritten = s.outbufWritten := rfl
@[simp] theorem waitFor_stCode (s : State) (d : Delay) : (waitFor d s).stCode = s.stCode := rfl
@[simp] theorem waitFor_stInfo (s : State) (d : Delay) : (waitFor d s).stInfo = s.stInfo := rfl
@[simp] theorem waitFor_result (s : State) (d : Delay) : (waitFor d s).result = s.result := rfl
@[simp] theorem waitFor_ctl (s : State) (d : Delay) : (waitFor d s).ctl = s.ctl := rfl
@[simp] theorem waitFor_gram (s : State) (d : Delay) : (waitFor d s).gram = s.gram := rfl
@[simp] theorem waitFor_gramEpoch (s : State) (d : Delay) : (waitFor d s).gramEpoch = s.gramEpoch := rfl
@[simp] theorem waitFor_trace (s : State) (d : Delay) : (waitFor d s).trace = .wait d :: s.trace := rfl
@[simp] theorem waitFor_busDriver (s : State) (d : Delay) : (waitFor d s).busDriver = s.busDriver := rfl
@[simp] theorem waitFor_input (s : State) (d : Delay) : (waitFor d s).input = s.input := rfl
@[simp] theorem waitFor_newInstance (s : State) (d : Delay) : (waitFor d s).newInstance = s.newInstance := rfl
@[simp] theorem waitFor_claimIn (s : State) (d : Delay) : (waitFor d s).claimIn = s.claimIn := rfl
@[simp] theorem waitFor_txIn (s : State) (d : Delay) : (waitFor d s).txIn = s.txIn := rfl
@[simp] theorem waitFor_openIn (s : State) (d : Delay) : (waitFor d s).openIn = s.openIn := rfl
@[simp] theorem waitFor_readIn (s : State) (d : Delay) : (waitFor d s).readIn = s.readIn := rfl
@[simp] theorem waitFor_cancelIn (s : State) (d : Delay) : (waitFor d s).cancelIn = s.cancelIn := rfl
@[simp] theorem waitFor_freeCtr (s : State) (d : Delay) : (waitFor d s).freeCtr = s.freeCtr := rfl

/-! ### `record` -/

@[simp] theorem record_cfg (s : State) (e : Event) : (record e s).cfg = s.cfg := rfl
@[simp] theorem record_drvState (s : State) (e : Event) : (record e s).drvState = s.drvState := rfl
@[simp] theorem record_busSel (s : State) (e : Event) : (record e s).busSel = s.busSel := rfl
@[simp] theorem record_dc (s : State) (e : Event) : (record e s).dc = s.dc := rfl
@[simp] theorem record_streamOpen (s : State) (e : Event) : (record e s).streamOpen = s.streamOpen := rfl
@[simp] theorem record_rstLvl (s : State) (e : Event) : (record e s).rstLvl = s.rstLvl := rfl
@[simp] theorem record_seq (s : State) (e : Event) : (record e s).seq = s.seq := rfl
@[simp] theorem record_decSrcW (s : State) (e : Event) : (record e s).decSrcW = s.decSrcW := rfl
@[simp] theorem record_decSrcH (s : State) (e : Event) : (record e s).decSrcH = s.decSrcH := rfl
@[simp] theorem record_decBpp (s : State) (e : Event) : (record e s).decBpp = s.decBpp := rfl
@[simp] theorem record_decW (s : State) (e : Event) : (record e s).decW = s.decW := rfl
@[simp] theorem record_decH (s : State) (e : Event) : (record e s).decH = s.decH := rfl
@[simp] theorem record_decRowSize (s : State) (e : Event) : (record e s).decRowSize = s.decRowSize := rfl
@[simp] theorem record_decRow (s : State) (e : Event) : (record e s).decRow = s.decRow := rfl
@[simp] theorem record_decSrcOpen (s : State) (e : Event) : (record e s).decSrcOpen = s.decSrcOpen := rfl
@[simp] theorem record_decWritten (s : State) (e : Event) : (record e s).decWritten = s.decWritten := rfl
@[simp] theorem record_hdr (s : State) (e : Event) : (record e s).hdr = s.hdr := rfl
@[simp] theorem record_inbuf (s : State) (e : Event) : (record e s).inbuf = s.inbuf := rfl
@[simp] theorem record_outbuf (s : State) (e : Event) : (record e s).outbuf = s.outbuf := rfl
@[simp] theorem record_hdrWritten (s : State) (e : Event) : (record e s).hdrWritten = s.hdrWritten := rfl
@[simp] theorem record_inbufWritten (s : State) (e : Event) : (record e s).inbufWritten = s.inbufWritten := rfl
@[simp] theorem record_outbufWritten (s : State) (e : Event) : (record e s).outbufWritten = s.outbufWritten := rfl
@[simp] theorem record_stCode (s : State) (e : Event) : (record e s).stCode = s.stCode := rfl
@[simp] theorem record_stInfo (s : State) (e : Event) : (record e s).stInfo = s.stInfo := rfl
@[simp] theorem record_result (s : State) (e : Event) : (record e s).result = s.result := rfl
@[simp] theorem record_ctl (s : State) (e : Event) : (record e s).ctl = s.ctl := rfl
@[simp] theorem record_gram (s : State) (e : Event) : (record e s).gram = s.gram := rfl
@[simp] theorem record_gramEpoch (s : State) (e : Event) : (record e s).gramEpoch = s.gramEpoch := rfl
@[simp] theorem record_trace (s : State) (e : Event) : (record e s).trace = e :: s.trace := rfl
@[simp] theorem record_busDriver (s : State) (e : Event) : (record e s).busDriver = s.busDriver := rfl
@[simp] theorem record_input (s : State) (e : Event) : (record e s).input = s.input := rfl
@[simp] theorem record_newInstance (s : State) (e : Event) : (record e s).newInstance = s.newInstance := rfl
@[simp] theorem record_claimIn (s : State) (e : Event) : (record e s).claimIn = s.claimIn := rfl
@[simp] theorem record_txIn (s : State) (e : Event) : (record e s).txIn = s.txIn := rfl
@[simp] theorem record_openIn (s : State) (e : Event) : (record e s).openIn = s.openIn := rfl
@[simp] theorem record_readIn (s : State) (e : Event) : (record e s).readIn = s.readIn := rfl
@[simp] theorem record_cancelIn (s : State) (e : Event) : (record e s).cancelIn = s.cancelIn := rfl
@[simp] theorem record_freeCtr (s : State) (e : Event) : (record e s).freeCtr = s.freeCtr := rfl

/-! ### `setSeq` -/

@[simp] theorem setSeq_cfg (s : State) (q : Seq) : (setSeq q s).cfg = s.cfg := rfl
@[simp] theorem setSeq_drvState (s : State) (q : Seq) : (setSeq q s).drvState = s.drvState := rfl
@[simp] theorem setSeq_busSel (s : State) (q : Seq) : (setSeq q s).busSel = s.busSel := rfl
@[simp] theorem setSeq_dc (s : State) (q : Seq) : (setSeq q s).dc = s.dc := rfl
@[simp] theorem setSeq_streamOpen (s : State) (q : Seq) : (setSeq q s).streamOpen = s.streamOpen := rfl
@[simp] theorem setSeq_rstLvl (s : State) (q : Seq) : (setSeq q s).rstLvl = s.rstLvl := rfl
@[simp] theorem setSeq_seq (s : State) (q : Seq) : (setSeq q s).seq = q := rfl
@[simp] theorem setSeq_decSrcW (s : State) (q : Seq) : (setSeq q s).decSrcW = s.decSrcW := rfl
@[simp] theorem setSeq_decSrcH (s : State) (q : Seq) : (setSeq q s).decSrcH = s.decSrcH := rfl
@[simp] theorem setSeq_decBpp (s : State) (q : Seq) : (setSeq q s).decBpp = s.decBpp := rfl
@[simp] theorem setSeq_decW (s : State) (q : Seq) : (setSeq q s).decW = s.decW := rfl
@[simp] theorem setSeq_decH (s : State) (q : Seq) : (setSeq q s).decH = s.decH := rfl
@[simp] theorem setSeq_decRowSize (s : State) (q : Seq) : (setSeq q s).decRowSize = s.decRowSize := rfl
@[simp] theorem setSeq_decRow (s : State) (q : Seq) : (setSeq q s).decRow = s.decRow := rfl
@[simp] theorem setSeq_decSrcOpen (s : State) (q : Seq) : (setSeq q s).decSrcOpen = s.decSrcOpen := rfl
@[simp] theorem setSeq_decWritten (s : State) (q : Seq) : (setSeq q s).decWritten = s.decWritten := rfl
@[simp] theorem setSeq_hdr (s : State) (q : Seq) : (setSeq q s).hdr = s.hdr := rfl
@[simp] theorem setSeq_inbuf (s : State) (q : Seq) : (setSeq q s).inbuf = s.inbuf := rfl
@[simp] theorem setSeq_outbuf (s : State) (q : Seq) : (setSeq q s).outbuf = s.outbuf := rfl
@[simp] theorem setSeq_hdrWritten (s : State) (q : Seq) : (setSeq q s).hdrWritten = s.hdrWritten := rfl
@[simp] theorem setSeq_inbufWritten (s : State) (q : Seq) : (setSeq q s).inbufWritten = s.inbufWritten := rfl
@[simp] theorem setSeq_outbufWritten (s : State) (q : Seq) : (setSeq q s).outbufWritten = s.outbufWritten := rfl
@[simp] theorem setSeq_stCode (s : State) (q : Seq) : (setSeq q s).stCode = s.stCode := rfl
@[simp] theorem setSeq_stInfo (s : State) (q : Seq) : (setSeq q s).stInfo = s.stInfo := rfl
@[simp] theorem setSeq_result (s : State) (q : Seq) : (setSeq q s).result = s.result := rfl
@[simp] theorem setSeq_ctl (s : State) (q : Seq) : (setSeq q s).ctl = s.ctl := rfl
@[simp] theorem setSeq_gram (s : State) (q : Seq) : (setSeq q s).gram = s.gram := rfl
@[simp] theorem setSeq_gramEpoch (s : State) (q : Seq) : (setSeq q s).gramEpoch = s.gramEpoch := rfl
@[simp] theorem setSeq_trace (s : State) (q : Seq) : (setSeq q s).trace = s.trace := rfl
@[simp] theorem setSeq_busDriver (s : State) (q : Seq) : (setSeq q s).busDriver = s.busDriver := rfl
@[simp] theorem setSeq_input (s : State) (q : Seq) : (setSeq q s).input = s.input := rfl
@[simp] theorem setSeq_newInstance (s : State) (q : Seq) : (setSeq q s).newInstance = s.newInstance := rfl
@[simp] theorem setSeq_claimIn (s : State) (q : Seq) : (setSeq q s).claimIn = s.claimIn := rfl
@[simp] theorem setSeq_txIn (s : State) (q : Seq) : (setSeq q s).txIn = s.txIn := rfl
@[simp] theorem setSeq_openIn (s : State) (q : Seq) : (setSeq q s).openIn = s.openIn := rfl
@[simp] theorem setSeq_readIn (s : State) (q : Seq) : (setSeq q s).readIn = s.readIn := rfl
@[simp] theorem setSeq_cancelIn (s : State) (q : Seq) : (setSeq q s).cancelIn = s.cancelIn := rfl
@[simp] theorem setSeq_freeCtr (s : State) (q : Seq) : (setSeq q s).freeCtr = s.freeCtr := rfl

/-! ### `consume` -/

@[simp] theorem consume_cfg (s : State) (r : List WireByte) : (consume r s).cfg = s.cfg := rfl
@[simp] theorem consume_drvState (s : State) (r : List WireByte) : (consume r s).drvState = s.drvState := rfl
@[simp] theorem consume_busSel (s : State) (r : List WireByte) : (consume r s).busSel = s.busSel := rfl
@[simp] theorem consume_dc (s : State) (r : List WireByte) : (consume r s).dc = s.dc := rfl
@[simp] theorem consume_streamOpen (s : State) (r : List WireByte) : (consume r s).streamOpen = s.streamOpen := rfl
@[simp] theorem consume_rstLvl (s : State) (r : List WireByte) : (consume r s).rstLvl = s.rstLvl := rfl
@[simp] theorem consume_seq (s : State) (r : List WireByte) : (consume r s).seq = s.seq := rfl
@[simp] theorem consume_decSrcW (s : State) (r : List WireByte) : (consume r s).decSrcW = s.decSrcW := rfl
@[simp] theorem consume_decSrcH (s : State) (r : List WireByte) : (consume r s).decSrcH = s.decSrcH := rfl
@[simp] theorem consume_decBpp (s : State) (r : List WireByte) : (consume r s).decBpp = s.decBpp := rfl
@[simp] theorem consume_decW (s : State) (r : List WireByte) : (consume r s).decW = s.decW := rfl
@[simp] theorem consume_decH (s : State) (r : List WireByte) : (consume r s).decH = s.decH := rfl
@[simp] theorem consume_decRowSize (s : State) (r : List WireByte) : (consume r s).decRowSize = s.decRowSize := rfl
@[simp] theorem consume_decRow (s : State) (r : List WireByte) : (consume r s).decRow = s.decRow := rfl
@[simp] theorem consume_decSrcOpen (s : State) (r : List WireByte) : (consume r s).decSrcOpen = s.decSrcOpen := rfl
@[simp] theorem consume_decWritten (s : State) (r : List WireByte) : (consume r s).decWritten = s.decWritten := rfl
@[simp] theorem consume_hdr (s : State) (r : List WireByte) : (consume r s).hdr = s.hdr := rfl
@[simp] theorem consume_inbuf (s : State) (r : List WireByte) : (consume r s).inbuf = s.inbuf := rfl
@[simp] theorem consume_outbuf (s : State) (r : List WireByte) : (consume r s).outbuf = s.outbuf := rfl
@[simp] theorem consume_hdrWritten (s : State) (r : List WireByte) : (consume r s).hdrWritten = s.hdrWritten := rfl
@[simp] theorem consume_inbufWritten (s : State) (r : List WireByte) : (consume r s).inbufWritten = s.inbufWritten := rfl
@[simp] theorem consume_outbufWritten (s : State) (r : List WireByte) : (consume r s).outbufWritten = s.outbufWritten := rfl
@[simp] theorem consume_stCode (s : State) (r : List WireByte) : (consume r s).stCode = s.stCode := rfl
@[simp] theorem consume_stInfo (s : State) (r : List WireByte) : (consume r s).stInfo = s.stInfo := rfl
@[simp] theorem consume_result (s : State) (r : List WireByte) : (consume r s).result = s.result := rfl
@[simp] theorem consume_ctl (s : State) (r : List WireByte) : (consume r s).ctl = s.ctl := rfl
@[simp] theorem consume_gram (s : State) (r : List WireByte) : (consume r s).gram = s.gram := rfl
@[simp] theorem consume_gramEpoch (s : State) (r : List WireByte) : (consume r s).gramEpoch = s.gramEpoch := rfl
@[simp] theorem consume_trace (s : State) (r : List WireByte) : (consume r s).trace = s.trace := rfl
@[simp] theorem consume_busDriver (s : State) (r : List WireByte) : (consume r s).busDriver = s.busDriver := rfl
@[simp] theorem consume_input (s : State) (r : List WireByte) : (consume r s).input = r := rfl
@[simp] theorem consume_newInstance (s : State) (r : List WireByte) : (consume r s).newInstance = s.newInstance := rfl
@[simp] theorem consume_claimIn (s : State) (r : List WireByte) : (consume r s).claimIn = s.claimIn := rfl
@[simp] theorem consume_txIn (s : State) (r : List WireByte) : (consume r s).txIn = s.txIn := rfl
@[simp] theorem consume_openIn (s : State) (r : List WireByte) : (consume r s).openIn = s.openIn := rfl
@[simp] theorem consume_readIn (s : State) (r : List WireByte) : (consume r s).readIn = s.readIn := rfl
@[simp] theorem consume_cancelIn (s : State) (r : List WireByte) : (consume r s).cancelIn = s.cancelIn := rfl
@[simp] theorem consume_freeCtr (s : State) (r : List WireByte) : (consume r s).freeCtr = s.freeCtr := rfl

/-! ### `returnOk` -/

@[simp] theorem returnOk_cfg (s : State) (r : Option Half) : (returnOk r s).cfg = s.cfg := rfl
@[simp] theorem returnOk_drvState (s : State) (r : Option Half) : (returnOk r s).drvState = s.drvState := rfl
@[simp] theorem returnOk_busSel (s : State) (r : Option Half) : (returnOk r s).busSel = s.busSel := rfl
@[simp] theorem returnOk_dc (s : State) (r : Option Half) : (returnOk r s).dc = s.dc := rfl
@[simp] theorem returnOk_streamOpen (s : State) (r : Option Half) : (returnOk r s).streamOpen = s.streamOpen := rfl
@[simp] theorem returnOk_rstLvl (s : State) (r : Option Half) : (returnOk r s).rstLvl = s.rstLvl := rfl
@[simp] theorem returnOk_seq (s : State) (r : Option Half) : (returnOk r s).seq = .idle := rfl
@[simp] theorem returnOk_decSrcW (s : State) (r : Option Half) : (returnOk r s).decSrcW = s.decSrcW := rfl
@[simp] theorem returnOk_decSrcH (s : State) (r : Option Half) : (returnOk r s).decSrcH = s.decSrcH := rfl
@[simp] theorem returnOk_decBpp (s : State) (r : Option Half) : (returnOk r s).decBpp = s.decBpp := rfl
@[simp] theorem returnOk_decW (s : State) (r : Option Half) : (returnOk r s).decW = s.decW := rfl
@[simp] theorem returnOk_decH (s : State) (r : Option Half) : (returnOk r s).decH = s.decH := rfl
@[simp] theorem returnOk_decRowSize (s : State) (r : Option Half) : (returnOk r s).decRowSize = s.decRowSize := rfl
@[simp] theorem returnOk_decRow (s : State) (r : Option Half) : (returnOk r s).decRow = s.decRow := rfl
@[simp] theorem returnOk_decSrcOpen (s : State) (r : Option Half) : (returnOk r s).decSrcOpen = s.decSrcOpen := rfl
@[simp] theorem returnOk_decWritten (s : State) (r : Option Half) : (returnOk r s).decWritten = s.decWritten := rfl
@[simp] theorem returnOk_hdr (s : State) (r : Option Half) : (returnOk r s).hdr = s.hdr := rfl
@[simp] theorem returnOk_inbuf (s : State) (r : Option Half) : (returnOk r s).inbuf = s.inbuf := rfl
@[simp] theorem returnOk_outbuf (s : State) (r : Option Half) : (returnOk r s).outbuf = s.outbuf := rfl
@[simp] theorem returnOk_hdrWritten (s : State) (r : Option Half) : (returnOk r s).hdrWritten = s.hdrWritten := rfl
@[simp] theorem returnOk_inbufWritten (s : State) (r : Option Half) : (returnOk r s).inbufWritten = s.inbufWritten := rfl
@[simp] theorem returnOk_outbufWritten (s : State) (r : Option Half) : (returnOk r s).outbufWritten = s.outbufWritten := rfl
@[simp] theorem returnOk_stCode (s : State) (r : Option Half) : (returnOk r s).stCode = .ok := rfl
@[simp] theorem returnOk_stInfo (s : State) (r : Option Half) : (returnOk r s).stInfo = StInfo.empty := rfl
@[simp] theorem returnOk_result (s : State) (r : Option Half) : (returnOk r s).result = r := rfl
@[simp] theorem returnOk_ctl (s : State) (r : Option Half) : (returnOk r s).ctl = s.ctl := rfl
@[simp] theorem returnOk_gram (s : State) (r : Option Half) : (returnOk r s).gram = s.gram := rfl
@[simp] theorem returnOk_gramEpoch (s : State) (r : Option Half) : (returnOk r s).gramEpoch = s.gramEpoch := rfl
@[simp] theorem returnOk_trace (s : State) (r : Option Half) : (returnOk r s).trace = s.trace := rfl
@[simp] theorem returnOk_busDriver (s : State) (r : Option Half) : (returnOk r s).busDriver = s.busDriver := rfl
@[simp] theorem returnOk_input (s : State) (r : Option Half) : (returnOk r s).input = s.input := rfl
@[simp] theorem returnOk_newInstance (s : State) (r : Option Half) : (returnOk r s).newInstance = s.newInstance := rfl
@[simp] theorem returnOk_claimIn (s : State) (r : Option Half) : (returnOk r s).claimIn = s.claimIn := rfl
@[simp] theorem returnOk_txIn (s : State) (r : Option Half) : (returnOk r s).txIn = s.txIn := rfl
@[simp] theorem returnOk_openIn (s : State) (r : Option Half) : (returnOk r s).openIn = s.openIn := rfl
@[simp] theorem returnOk_readIn (s : State) (r : Option Half) : (returnOk r s).readIn = s.readIn := rfl
@[simp] theorem returnOk_cancelIn (s : State) (r : Option Half) : (returnOk r s).cancelIn = s.cancelIn := rfl
@[simp] theorem returnOk_freeCtr (s : State) (r : Option Half) : (returnOk r s).freeCtr = s.freeCtr := rfl

/-! ### `reportStatus` -/

@[simp] theorem reportStatus_cfg (s : State) (i : StInfo) (c : StCode) : (reportStatus i c s).cfg = s.cfg := rfl
@[simp] theorem reportStatus_drvState (s : State) (i : StInfo) (c : StCode) : (reportStatus i c s).drvState = s.drvState := rfl
@[simp] theorem reportStatus_busSel (s : State) (i : StInfo) (c : StCode) : (reportStatus i c s).busSel = s.busSel := rfl
@[simp] theorem reportStatus_dc (s : State) (i : StInfo) (c : StCode) : (reportStatus i c s).dc = s.dc := rfl
@[simp] theorem reportStatus_streamOpen (s : State) (i : StInfo) (c : StCode) : (reportStatus i c s).streamOpen = s.streamOpen := rfl
@[simp] theorem reportStatus_rstLvl (s : State) (i : StInfo) (c : StCode) : (reportStatus i c s).rstLvl = s.rstLvl := rfl
@[simp] theorem reportStatus_seq (s : State) (i : StInfo) (c : StCode) : (reportStatus i c s).seq = s.seq := rfl
@[simp] theorem reportStatus_decSrcW (s : State) (i : StInfo) (c : StCode) : (reportStatus i c s).decSrcW = s.decSrcW := rfl
@[simp] theorem reportStatus_decSrcH (s : State) (i : StInfo) (c : StCode) : (reportStatus i c s).decSrcH = s.decSrcH := rfl
@[simp] theorem reportStatus_decBpp (s : State) (i : StInfo) (c : StCode) : (reportStatus i c s).decBpp = s.decBpp := rfl
@[simp] theorem reportStatus_decW (s : State) (i : StInfo) (c : StCode) : (reportStatus i c s).decW = s.decW := rfl
@[simp] theorem reportStatus_decH (s : State) (i : StInfo) (c : StCode) : (reportStatus i c s).decH = s.decH := rfl
@[simp] theorem reportStatus_decRowSize (s : State) (i : StInfo) (c : StCode) : (reportStatus i c s).decRowSize = s.decRowSize := rfl
@[simp] theorem reportStatus_decRow (s : State) (i : StInfo) (c : StCode) : (reportStatus i c s).decRow = s.decRow := rfl
@[simp] theorem reportStatus_decSrcOpen (s : State) (i : StInfo) (c : StCode) : (reportStatus i c s).decSrcOpen = s.decSrcOpen := rfl
@[simp] theorem reportStatus_decWritten (s : State) (i : StInfo) (c : StCode) : (reportStatus i c s).decWritten = s.decWritten := rfl
@[simp] theorem reportStatus_hdr (s : State) (i : StInfo) (c : StCode) : (reportStatus i c s).hdr = s.hdr := rfl
@[simp] theorem reportStatus_inbuf (s : State) (i : StInfo) (c : StCode) : (reportStatus i c s).inbuf = s.inbuf := rfl
@[simp] theorem reportStatus_outbuf (s : State) (i : StInfo) (c : StCode) : (reportStatus i c s).outbuf = s.outbuf := rfl
@[simp] theorem reportStatus_hdrWritten (s : State) (i : StInfo) (c : StCode) : (reportStatus i c s).hdrWritten = s.hdrWritten := rfl
@[simp] theorem reportStatus_inbufWritten (s : State) (i : StInfo) (c : StCode) : (reportStatus i c s).inbufWritten = s.inbufWritten := rfl
@[simp] theorem reportStatus_outbufWritten (s : State) (i : StInfo) (c : StCode) : (reportStatus i c s).outbufWritten = s.outbufWritten := rfl
@[simp] theorem reportStatus_stCode (s : State) (i : StInfo) (c : StCode) : (reportStatus i c s).stCode = c := rfl
@[simp] theorem reportStatus_stInfo (s : State) (i : StInfo) (c : StCode) : (reportStatus i c s).stInfo = i := rfl
@[simp] theorem reportStatus_result (s : State) (i : StInfo) (c : StCode) : (reportStatus i c s).result = none := rfl
@[simp] theorem reportStatus_ctl (s : State) (i : StInfo) (c : StCode) : (reportStatus i c s).ctl = s.ctl := rfl
@[simp] theorem reportStatus_gram (s : State) (i : StInfo) (c : StCode) : (reportStatus i c s).gram = s.gram := rfl
@[simp] theorem reportStatus_gramEpoch (s : State) (i : StInfo) (c : StCode) : (reportStatus i c s).gramEpoch = s.gramEpoch := rfl
@[simp] theorem reportStatus_trace (s : State) (i : StInfo) (c : StCode) : (reportStatus i c s).trace = s.trace := rfl
@[simp] theorem reportStatus_busDriver (s : State) (i : StInfo) (c : StCode) : (reportStatus i c s).busDriver = s.busDriver := rfl
@[simp] theorem reportStatus_input (s : State) (i : StInfo) (c : StCode) : (reportStatus i c s).input = s.input := rfl
@[simp] theorem reportStatus_newInstance (s : State) (i : StInfo) (c : StCode) : (reportStatus i c s).newInstance = s.newInstance := rfl
@[simp] theorem reportStatus_claimIn (s : State) (i : StInfo) (c : StCode) : (reportStatus i c s).claimIn = s.claimIn := rfl
@[simp] theorem reportStatus_txIn (s : State) (i : StInfo) (c : StCode) : (reportStatus i c s).txIn = s.txIn := rfl
@[simp] theorem reportStatus_openIn (s : State) (i : StInfo) (c : StCode) : (reportStatus i c s).openIn = s.openIn := rfl
@[simp] theorem reportStatus_readIn (s : State) (i : StInfo) (c : StCode) : (reportStatus i c s).readIn = s.readIn := rfl
@[simp] theorem reportStatus_cancelIn (s : State) (i : StInfo) (c : StCode) : (reportStatus i c s).cancelIn = s.cancelIn := rfl
@[simp] theorem reportStatus_freeCtr (s : State) (i : StInfo) (c : StCode) : (reportStatus i c s).freeCtr = s.freeCtr := rfl

/-! ### `startDecode` -/

@[simp] theorem startDecode_cfg (s : State) : (startDecode s).cfg = s.cfg := rfl
@[simp] theorem startDecode_drvState (s : State) : (startDecode s).drvState = s.drvState := rfl
@[simp] theorem startDecode_busSel (s : State) : (startDecode s).busSel = s.busSel := rfl
@[simp] theorem startDecode_dc (s : State) : (startDecode s).dc = s.dc := rfl
@[simp] theorem startDecode_streamOpen (s : State) : (startDecode s).streamOpen = s.streamOpen := rfl
@[simp] theorem startDecode_rstLvl (s : State) : (startDecode s).rstLvl = s.rstLvl := rfl
@[simp] theorem startDecode_seq (s : State) : (startDecode s).seq = s.seq := rfl
@[simp] theorem startDecode_decSrcW (s : State) : (startDecode s).decSrcW = s.decSrcW := rfl
@[simp] theorem startDecode_decSrcH (s : State) : (startDecode s).decSrcH = s.decSrcH := rfl
@[simp] theorem startDecode_decBpp (s : State) : (startDecode s).decBpp = s.decBpp := rfl
@[simp] theorem startDecode_decW (s : State) : (startDecode s).decW = s.decW := rfl
@[simp] theorem startDecode_decH (s : State) : (startDecode s).decH = s.decH := rfl
@[simp] theorem startDecode_decRowSize (s : State) : (startDecode s).decRowSize = s.decRowSize := rfl
@[simp] theorem startDecode_decRow (s : State) : (startDecode s).decRow = s.decRow := rfl
@[simp] theorem startDecode_decSrcOpen (s : State) : (startDecode s).decSrcOpen = s.decSrcOpen := rfl
@[simp] theorem startDecode_decWritten (s : State) : (startDecode s).decWritten = [] := rfl
@[simp] theorem startDecode_hdr (s : State) : (startDecode s).hdr = s.hdr := rfl
@[simp] theorem startDecode_inbuf (s : State) : (startDecode s).inbuf = s.inbuf := rfl
@[simp] theorem startDecode_outbuf (s : State) : (startDecode s).outbuf = s.outbuf := rfl
@[simp] theorem startDecode_hdrWritten (s : State) : (startDecode s).hdrWritten = 0 := rfl
@[simp] theorem startDecode_inbufWritten (s : State) : (startDecode s).inbufWritten = 0 := rfl
@[simp] theorem startDecode_outbufWritten (s : State) : (startDecode s).outbufWritten = 0 := rfl
@[simp] theorem startDecode_stCode (s : State) : (startDecode s).stCode = s.stCode := rfl
@[simp] theorem startDecode_stInfo (s : State) : (startDecode s).stInfo = s.stInfo := rfl
@[simp] theorem startDecode_result (s : State) : (startDecode s).result = s.result := rfl
@[simp] theorem startDecode_ctl (s : State) : (startDecode s).ctl = s.ctl := rfl
@[simp] theorem startDecode_gram (s : State) : (startDecode s).gram = s.gram := rfl
@[simp] theorem startDecode_gramEpoch (s : State) : (startDecode s).gramEpoch = s.gramEpoch := rfl
@[simp] theorem startDecode_trace (s : State) : (startDecode s).trace = s.trace := rfl
@[simp] theorem startDecode_busDriver (s : State) : (startDecode s).busDriver = s.busDriver := rfl
@[simp] theorem startDecode_input (s : State) : (startDecode s).input = s.input := rfl
@[simp] theorem startDecode_newInstance (s : State) : (startDecode s).newInstance = s.newInstance := rfl
@[simp] theorem startDecode_claimIn (s : State) : (startDecode s).claimIn = s.claimIn := rfl
@[simp] theorem startDecode_txIn (s : State) : (startDecode s).txIn = s.txIn := rfl
@[simp] theorem startDecode_openIn (s : State) : (startDecode s).openIn = s.openIn := rfl
@[simp] theorem startDecode_readIn (s : State) : (startDecode s).readIn = s.readIn := rfl
@[simp] theorem startDecode_cancelIn (s : State) : (startDecode s).cancelIn = s.cancelIn := rfl
@[simp] theorem startDecode_freeCtr (s : State) : (startDecode s).freeCtr = s.freeCtr := rfl

/-! ### `ctlReset` -/

@[simp] theorem ctlReset_cfg (s : State) : (ctlReset s).cfg = s.cfg := rfl
@[simp] theorem ctlReset_drvState (s : State) : (ctlReset s).drvState = s.drvState := rfl
@[simp] theorem ctlReset_busSel (s : State) : (ctlReset s).busSel = s.busSel := rfl
@[simp] theorem ctlReset_dc (s : State) : (ctlReset s).dc = s.dc := rfl
@[simp] theorem ctlReset_streamOpen (s : State) : (ctlReset s).streamOpen = s.streamOpen := rfl
@[simp] theorem ctlReset_rstLvl (s : State) : (ctlReset s).rstLvl = s.rstLvl := rfl
@[simp] theorem ctlReset_seq (s : State) : (ctlReset s).seq = s.seq := rfl
@[simp] theorem ctlReset_decSrcW (s : State) : (ctlReset s).decSrcW = s.decSrcW := rfl
@[simp] theorem ctlReset_decSrcH (s : State) : (ctlReset s).decSrcH = s.decSrcH := rfl
@[simp] theorem ctlReset_decBpp (s : State) : (ctlReset s).decBpp = s.decBpp := rfl
@[simp] theorem ctlReset_decW (s : State) : (ctlReset s).decW = s.decW := rfl
@[simp] theorem ctlReset_decH (s : State) : (ctlReset s).decH = s.decH := rfl
@[simp] theorem ctlReset_decRowSize (s : State) : (ctlReset s).decRowSize = s.decRowSize := rfl
@[simp] theorem ctlReset_decRow (s : State) : (ctlReset s).decRow = s.decRow := rfl
@[simp] theorem ctlReset_decSrcOpen (s : State) : (ctlReset s).decSrcOpen = s.decSrcOpen := rfl
@[simp] theorem ctlReset_decWritten (s : State) : (ctlReset s).decWritten = s.decWritten := rfl
@[simp] theorem ctlReset_hdr (s : State) : (ctlReset s).hdr = s.hdr := rfl
@[simp] theorem ctlReset_inbuf (s : State) : (ctlReset s).inbuf = s.inbuf := rfl
@[simp] theorem ctlReset_outbuf (s : State) : (ctlReset s).outbuf = s.outbuf := rfl
@[simp] theorem ctlReset_hdrWritten (s : State) : (ctlReset s).hdrWritten = s.hdrWritten := rfl
@[simp] theorem ctlReset_inbufWritten (s : State) : (ctlReset s).inbufWritten = s.inbufWritten := rfl
@[simp] theorem ctlReset_outbufWritten (s : State) : (ctlReset s).outbufWritten = s.outbufWritten := rfl
@[simp] theorem ctlReset_stCode (s : State) : (ctlReset s).stCode = s.stCode := rfl
@[simp] theorem ctlReset_stInfo (s : State) : (ctlReset s).stInfo = s.stInfo := rfl
@[simp] theorem ctlReset_result (s : State) : (ctlReset s).result = s.result := rfl
@[simp] theorem ctlReset_ctl (s : State) : (ctlReset s).ctl = Ctl.afterReset s.freeCtr := rfl
@[simp] theorem ctlReset_gram (s : State) : (ctlReset s).gram = [] := rfl
@[simp] theorem ctlReset_gramEpoch (s : State) : (ctlReset s).gramEpoch = s.freeCtr := rfl
@[simp] theorem ctlReset_trace (s : State) : (ctlReset s).trace = s.trace := rfl
@[simp] theorem ctlReset_busDriver (s : State) : (ctlReset s).busDriver = s.busDriver := rfl
@[simp] theorem ctlReset_input (s : State) : (ctlReset s).input = s.input := rfl
@[simp] theorem ctlReset_newInstance (s : State) : (ctlReset s).newInstance = s.newInstance := rfl
@[simp] theorem ctlReset_claimIn (s : State) : (ctlReset s).claimIn = s.claimIn := rfl
@[simp] theorem ctlReset_txIn (s : State) : (ctlReset s).txIn = s.txIn := rfl
@[simp] theorem ctlReset_openIn (s : State) : (ctlReset s).openIn = s.openIn := rfl
@[simp] theorem ctlReset_readIn (s : State) : (ctlReset s).readIn = s.readIn := rfl
@[simp] theorem ctlReset_cancelIn (s : State) : (ctlReset s).cancelIn = s.cancelIn := rfl
@[simp] theorem ctlReset_freeCtr (s : State) : (ctlReset s).freeCtr = s.freeCtr + 1 := rfl

/-! ### `ctlBegin` -/

@[simp] theorem ctlBegin_cfg (s : State) (b : Byte) : (ctlBegin b s).cfg = s.cfg := rfl
@[simp] theorem ctlBegin_drvState (s : State) (b : Byte) : (ctlBegin b s).drvState = s.drvState := rfl
@[simp] theorem ctlBegin_busSel (s : State) (b : Byte) : (ctlBegin b s).busSel = s.busSel := rfl
@[simp] theorem ctlBegin_dc (s : State) (b : Byte) : (ctlBegin b s).dc = s.dc := rfl
@[simp] theorem ctlBegin_streamOpen (s : State) (b : Byte) : (ctlBegin b s).streamOpen = s.streamOpen := rfl
@[simp] theorem ctlBegin_rstLvl (s : State) (b : Byte) : (ctlBegin b s).rstLvl = s.rstLvl := rfl
@[simp] theorem ctlBegin_seq (s : State) (b : Byte) : (ctlBegin b s).seq = s.seq := rfl
@[simp] theorem ctlBegin_decSrcW (s : State) (b : Byte) : (ctlBegin b s).decSrcW = s.decSrcW := rfl
@[simp] theorem ctlBegin_decSrcH (s : State) (b : Byte) : (ctlBegin b s).decSrcH = s.decSrcH := rfl
@[simp] theorem ctlBegin_decBpp (s : State) (b : Byte) : (ctlBegin b s).decBpp = s.decBpp := rfl
@[simp] theorem ctlBegin_decW (s : State) (b : Byte) : (ctlBegin b s).decW = s.decW := rfl
@[simp] theorem ctlBegin_decH (s : State) (b : Byte) : (ctlBegin b s).decH = s.decH := rfl
@[simp] theorem ctlBegin_decRowSize (s : State) (b : Byte) : (ctlBegin b s).decRowSize = s.decRowSize := rfl
@[simp] theorem ctlBegin_decRow (s : State) (b : Byte) : (ctlBegin b s).decRow = s.decRow := rfl
@[simp] theorem ctlBegin_decSrcOpen (s : State) (b : Byte) : (ctlBegin b s).decSrcOpen = s.decSrcOpen := rfl
@[simp] theorem ctlBegin_decWritten (s : State) (b : Byte) : (ctlBegin b s).decWritten = s.decWritten := rfl
@[simp] theorem ctlBegin_hdr (s : State) (b : Byte) : (ctlBegin b s).hdr = s.hdr := rfl
@[simp] theorem ctlBegin_inbuf (s : State) (b : Byte) : (ctlBegin b s).inbuf = s.inbuf := rfl
@[simp] theorem ctlBegin_outbuf (s : State) (b : Byte) : (ctlBegin b s).outbuf = s.outbuf := rfl
@[simp] theorem ctlBegin_hdrWritten (s : State) (b : Byte) : (ctlBegin b s).hdrWritten = s.hdrWritten := rfl
@[simp] theorem ctlBegin_inbufWritten (s : State) (b : Byte) : (ctlBegin b s).inbufWritten = s.inbufWritten := rfl
@[simp] theorem ctlBegin_outbufWritten (s : State) (b : Byte) : (ctlBegin b s).outbufWritten = s.outbufWritten := rfl
@[simp] theorem ctlBegin_stCode (s : State) (b : Byte) : (ctlBegin b s).stCode = s.stCode := rfl
@[simp] theorem ctlBegin_stInfo (s : State) (b : Byte) : (ctlBegin b s).stInfo = s.stInfo := rfl
@[simp] theorem ctlBegin_result (s : State) (b : Byte) : (ctlBegin b s).result = s.result := rfl
@[simp] theorem ctlBegin_ctl (s : State) (b : Byte) : (ctlBegin b s).ctl = { s.ctl with cmd := some b, argi := 0 } := rfl
@[simp] theorem ctlBegin_gram (s : State) (b : Byte) : (ctlBegin b s).gram = s.gram := rfl
@[simp] theorem ctlBegin_gramEpoch (s : State) (b : Byte) : (ctlBegin b s).gramEpoch = s.gramEpoch := rfl
@[simp] theorem ctlBegin_trace (s : State) (b : Byte) : (ctlBegin b s).trace = s.trace := rfl
@[simp] theorem ctlBegin_busDriver (s : State) (b : Byte) : (ctlBegin b s).busDriver = s.busDriver := rfl
@[simp] theorem ctlBegin_input (s : State) (b : Byte) : (ctlBegin b s).input = s.input := rfl
@[simp] theorem ctlBegin_newInstance (s : State) (b : Byte) : (ctlBegin b s).newInstance = s.newInstance := rfl
@[simp] theorem ctlBegin_claimIn (s : State) (b : Byte) : (ctlBegin b s).claimIn = s.claimIn := rfl
@[simp] theorem ctlBegin_txIn (s : State) (b : Byte) : (ctlBegin b s).txIn = s.txIn := rfl
@[simp] theorem ctlBegin_openIn (s : State) (b : Byte) : (ctlBegin b s).openIn = s.openIn := rfl
@[simp] theorem ctlBegin_readIn (s : State) (b : Byte) : (ctlBegin b s).readIn = s.readIn := rfl
@[simp] theorem ctlBegin_cancelIn (s : State) (b : Byte) : (ctlBegin b s).cancelIn = s.cancelIn := rfl
@[simp] theorem ctlBegin_freeCtr (s : State) (b : Byte) : (ctlBegin b s).freeCtr = s.freeCtr := rfl

/-! ### `freeGramAll` -/

@[simp] theorem freeGramAll_cfg (s : State) : (freeGramAll s).cfg = s.cfg := rfl
@[simp] theorem freeGramAll_drvState (s : State) : (freeGramAll s).drvState = s.drvState := rfl
@[simp] theorem freeGramAll_busSel (s : State) : (freeGramAll s).busSel = s.busSel := rfl
@[simp] theorem freeGramAll_dc (s : State) : (freeGramAll s).dc = s.dc := rfl
@[simp] theorem freeGramAll_streamOpen (s : State) : (freeGramAll s).streamOpen = s.streamOpen := rfl
@[simp] theorem freeGramAll_rstLvl (s : State) : (freeGramAll s).rstLvl = s.rstLvl := rfl
@[simp] theorem freeGramAll_seq (s : State) : (freeGramAll s).seq = s.seq := rfl
@[simp] theorem freeGramAll_decSrcW (s : State) : (freeGramAll s).decSrcW = s.decSrcW := rfl
@[simp] theorem freeGramAll_decSrcH (s : State) : (freeGramAll s).decSrcH = s.decSrcH := rfl
@[simp] theorem freeGramAll_decBpp (s : State) : (freeGramAll s).decBpp = s.decBpp := rfl
@[simp] theorem freeGramAll_decW (s : State) : (freeGramAll s).decW = s.decW := rfl
@[simp] theorem freeGramAll_decH (s : State) : (freeGramAll s).decH = s.decH := rfl
@[simp] theorem freeGramAll_decRowSize (s : State) : (freeGramAll s).decRowSize = s.decRowSize := rfl
@[simp] theorem freeGramAll_decRow (s : State) : (freeGramAll s).decRow = s.decRow := rfl
@[simp] theorem freeGramAll_decSrcOpen (s : State) : (freeGramAll s).decSrcOpen = s.decSrcOpen := rfl
@[simp] theorem freeGramAll_decWritten (s : State) : (freeGramAll s).decWritten = s.decWritten := rfl
@[simp] theorem freeGramAll_hdr (s : State) : (freeGramAll s).hdr = s.hdr := rfl
@[simp] theorem freeGramAll_inbuf (s : State) : (freeGramAll s).inbuf = s.inbuf := rfl
@[simp] theorem freeGramAll_outbuf (s : State) : (freeGramAll s).outbuf = s.outbuf := rfl
@[simp] theorem freeGramAll_hdrWritten (s : State) : (freeGramAll s).hdrWritten = s.hdrWritten := rfl
@[simp] theorem freeGramAll_inbufWritten (s : State) : (freeGramAll s).inbufWritten = s.inbufWritten := rfl
@[simp] theorem freeGramAll_outbufWritten (s : State) : (freeGramAll s).outbufWritten = s.outbufWritten := rfl
@[simp] theorem freeGramAll_stCode (s : State) : (freeGramAll s).stCode = s.stCode := rfl
@[simp] theorem freeGramAll_stInfo (s : State) : (freeGramAll s).stInfo = s.stInfo := rfl
@[simp] theorem freeGramAll_result (s : State) : (freeGramAll s).result = s.result := rfl
@[simp] theorem freeGramAll_ctl (s : State) : (freeGramAll s).ctl = s.ctl := rfl
@[simp] theorem freeGramAll_gram (s : State) : (freeGramAll s).gram = [] := rfl
@[simp] theorem freeGramAll_gramEpoch (s : State) : (freeGramAll s).gramEpoch = s.freeCtr := rfl
@[simp] theorem freeGramAll_trace (s : State) : (freeGramAll s).trace = s.trace := rfl
@[simp] theorem freeGramAll_busDriver (s : State) : (freeGramAll s).busDriver = s.busDriver := rfl
@[simp] theorem freeGramAll_input (s : State) : (freeGramAll s).input = s.input := rfl
@[simp] theorem freeGramAll_newInstance (s : State) : (freeGramAll s).newInstance = s.newInstance := rfl
@[simp] theorem freeGramAll_claimIn (s : State) : (freeGramAll s).claimIn = s.claimIn := rfl
@[simp] theorem freeGramAll_txIn (s : State) : (freeGramAll s).txIn = s.txIn := rfl
@[simp] theorem freeGramAll_openIn (s : State) : (freeGramAll s).openIn = s.openIn := rfl
@[simp] theorem freeGramAll_readIn (s : State) : (freeGramAll s).readIn = s.readIn := rfl
@[simp] theorem freeGramAll_cancelIn (s : State) : (freeGramAll s).cancelIn = s.cancelIn := rfl
@[simp] theorem freeGramAll_freeCtr (s : State) : (freeGramAll s).freeCtr = s.freeCtr + 1 := rfl

/-! ### `freeWindow` -/

@[simp] theorem freeWindow_cfg (s : State) : (freeWindow s).cfg = s.cfg := rfl
@[simp] theorem freeWindow_drvState (s : State) : (freeWindow s).drvState = s.drvState := rfl
@[simp] theorem freeWindow_busSel (s : State) : (freeWindow s).busSel = s.busSel := rfl
@[simp] theorem freeWindow_dc (s : State) : (freeWindow s).dc = s.dc := rfl
@[simp] theorem freeWindow_streamOpen (s : State) : (freeWindow s).streamOpen = s.streamOpen := rfl
@[simp] theorem freeWindow_rstLvl (s : State) : (freeWindow s).rstLvl = s.rstLvl := rfl
@[simp] theorem freeWindow_seq (s : State) : (freeWindow s).seq = s.seq := rfl
@[simp] theorem freeWindow_decSrcW (s : State) : (freeWindow s).decSrcW = s.decSrcW := rfl
@[simp] theorem freeWindow_decSrcH (s : State) : (freeWindow s).decSrcH = s.decSrcH := rfl
@[simp] theorem freeWindow_decBpp (s : State) : (freeWindow s).decBpp = s.decBpp := rfl
@[simp] theorem freeWindow_decW (s : State) : (freeWindow s).decW = s.decW := rfl
@[simp] theorem freeWindow_decH (s : State) : (freeWindow s).decH = s.decH := rfl
@[simp] theorem freeWindow_decRowSize (s : State) : (freeWindow s).decRowSize = s.decRowSize := rfl
@[simp] theorem freeWindow_decRow (s : State) : (freeWindow s).decRow = s.decRow := rfl
@[simp] theorem freeWindow_decSrcOpen (s : State) : (freeWindow s).decSrcOpen = s.decSrcOpen := rfl
@[simp] theorem freeWindow_decWritten (s : State) : (freeWindow s).decWritten = s.decWritten := rfl
@[simp] theorem freeWindow_hdr (s : State) : (freeWindow s).hdr = s.hdr := rfl
@[simp] theorem freeWindow_inbuf (s : State) : (freeWindow s).inbuf = s.inbuf := rfl
@[simp] theorem freeWindow_outbuf (s : State) : (freeWindow s).outbuf = s.outbuf := rfl
@[simp] theorem freeWindow_hdrWritten (s : State) : (freeWindow s).hdrWritten = s.hdrWritten := rfl
@[simp] theorem freeWindow_inbufWritten (s : State) : (freeWindow s).inbufWritten = s.inbufWritten := rfl
@[simp] theorem freeWindow_outbufWritten (s : State) : (freeWindow s).outbufWritten = s.outbufWritten := rfl
@[simp] theorem freeWindow_stCode (s : State) : (freeWindow s).stCode = s.stCode := rfl
@[simp] theorem freeWindow_stInfo (s : State) : (freeWindow s).stInfo = s.stInfo := rfl
@[simp] theorem freeWindow_result (s : State) : (freeWindow s).result = s.result := rfl
@[simp] theorem freeWindow_ctl (s : State) : (freeWindow s).ctl = s.ctl := rfl
@[simp] theorem freeWindow_gramEpoch (s : State) : (freeWindow s).gramEpoch = s.gramEpoch := rfl
@[simp] theorem freeWindow_trace (s : State) : (freeWindow s).trace = s.trace := rfl
@[simp] theorem freeWindow_busDriver (s : State) : (freeWindow s).busDriver = s.busDriver := rfl
@[simp] theorem freeWindow_input (s : State) : (freeWindow s).input = s.input := rfl
@[simp] theorem freeWindow_newInstance (s : State) : (freeWindow s).newInstance = s.newInstance := rfl
@[simp] theorem freeWindow_claimIn (s : State) : (freeWindow s).claimIn = s.claimIn := rfl
@[simp] theorem freeWindow_txIn (s : State) : (freeWindow s).txIn = s.txIn := rfl
@[simp] theorem freeWindow_openIn (s : State) : (freeWindow s).openIn = s.openIn := rfl
@[simp] theorem freeWindow_readIn (s : State) : (freeWindow s).readIn = s.readIn := rfl
@[simp] theorem freeWindow_cancelIn (s : State) : (freeWindow s).cancelIn = s.cancelIn := rfl
@[simp] theorem freeWindow_freeCtr (s : State) : (freeWindow s).freeCtr = s.freeCtr + 1 := rfl

/-! ### `freeWindowRegs` -/

@[simp] theorem freeWindowRegs_cfg (s : State) : (freeWindowRegs s).cfg = s.cfg := rfl
@[simp] theorem freeWindowRegs_drvState (s : State) : (freeWindowRegs s).drvState = s.drvState := rfl
@[simp] theorem freeWindowRegs_busSel (s : State) : (freeWindowRegs s).busSel = s.busSel := rfl
@[simp] theorem freeWindowRegs_dc (s : State) : (freeWindowRegs s).dc = s.dc := rfl
@[simp] theorem freeWindowRegs_streamOpen (s : State) : (freeWindowRegs s).streamOpen = s.streamOpen := rfl
@[simp] theorem freeWindowRegs_rstLvl (s : State) : (freeWindowRegs s).rstLvl = s.rstLvl := rfl
@[simp] theorem freeWindowRegs_seq (s : State) : (freeWindowRegs s).seq = s.seq := rfl
@[simp] theorem freeWindowRegs_decSrcW (s : State) : (freeWindowRegs s).decSrcW = s.decSrcW := rfl
@[simp] theorem freeWindowRegs_decSrcH (s : State) : (freeWindowRegs s).decSrcH = s.decSrcH := rfl
@[simp] theorem freeWindowRegs_decBpp (s : State) : (freeWindowRegs s).decBpp = s.decBpp := rfl
@[simp] theorem freeWindowRegs_decW (s : State) : (freeWindowRegs s).decW = s.decW := rfl
@[simp] theorem freeWindowRegs_decH (s : State) : (freeWindowRegs s).decH = s.decH := rfl
@[simp] theorem freeWindowRegs_decRowSize (s : State) : (freeWindowRegs s).decRowSize = s.decRowSize := rfl
@[simp] theorem freeWindowRegs_decRow (s : State) : (freeWindowRegs s).decRow = s.decRow := rfl
@[simp] theorem freeWindowRegs_decSrcOpen (s : State) : (freeWindowRegs s).decSrcOpen = s.decSrcOpen := rfl
@[simp] theorem freeWindowRegs_decWritten (s : State) : (freeWindowRegs s).decWritten = s.decWritten := rfl
@[simp] theorem freeWindowRegs_hdr (s : State) : (freeWindowRegs s).hdr = s.hdr := rfl
@[simp] theorem freeWindowRegs_inbuf (s : State) : (freeWindowRegs s).inbuf = s.inbuf := rfl
@[simp] theorem freeWindowRegs_outbuf (s : State) : (freeWindowRegs s).outbuf = s.outbuf := rfl
@[simp] theorem freeWindowRegs_hdrWritten (s : State) : (freeWindowRegs s).hdrWritten = s.hdrWritten := rfl
@[simp] theorem freeWindowRegs_inbufWritten (s : State) : (freeWindowRegs s).inbufWritten = s.inbufWritten := rfl
@[simp] theorem freeWindowRegs_outbufWritten (s : State) : (freeWindowRegs s).outbufWritten = s.outbufWritten := rfl
@[simp] theorem freeWindowRegs_stCode (s : State) : (freeWindowRegs s).stCode = s.stCode := rfl
@[simp] theorem freeWindowRegs_stInfo (s : State) : (freeWindowRegs s).stInfo = s.stInfo := rfl
@[simp] theorem freeWindowRegs_result (s : State) : (freeWindowRegs s).result = s.result := rfl
@[simp] theorem freeWindowRegs_gram (s : State) : (freeWindowRegs s).gram = s.gram := rfl
@[simp] theorem freeWindowRegs_gramEpoch (s : State) : (freeWindowRegs s).gramEpoch = s.gramEpoch := rfl
@[simp] theorem freeWindowRegs_trace (s : State) : (freeWindowRegs s).trace = s.trace := rfl
@[simp] theorem freeWindowRegs_busDriver (s : State) : (freeWindowRegs s).busDriver = s.busDriver := rfl
@[simp] theorem freeWindowRegs_input (s : State) : (freeWindowRegs s).input = s.input := rfl
@[simp] theorem freeWindowRegs_newInstance (s : State) : (freeWindowRegs s).newInstance = s.newInstance := rfl
@[simp] theorem freeWindowRegs_claimIn (s : State) : (freeWindowRegs s).claimIn = s.claimIn := rfl
@[simp] theorem freeWindowRegs_txIn (s : State) : (freeWindowRegs s).txIn = s.txIn := rfl
@[simp] theorem freeWindowRegs_openIn (s : State) : (freeWindowRegs s).openIn = s.openIn := rfl
@[simp] theorem freeWindowRegs_readIn (s : State) : (freeWindowRegs s).readIn = s.readIn := rfl
@[simp] theorem freeWindowRegs_cancelIn (s : State) : (freeWindowRegs s).cancelIn = s.cancelIn := rfl
@[simp] theorem freeWindowRegs_freeCtr (s : State) : (freeWindowRegs s).freeCtr = s.freeCtr + 1 := rfl

/-! ### `freeColumns` -/

@[simp] theorem freeColumns_cfg (s : State) : (freeColumns s).cfg = s.cfg := rfl
@[simp] theorem freeColumns_drvState (s : State) : (freeColumns s).drvState = s.drvState := rfl
@[simp] theorem freeColumns_busSel (s : State) : (freeColumns s).busSel = s.busSel := rfl
@[simp] theorem freeColumns_dc (s : State) : (freeColumns s).dc = s.dc := rfl
@[simp] theorem freeColumns_streamOpen (s : State) : (freeColumns s).streamOpen = s.streamOpen := rfl
@[simp] theorem freeColumns_rstLvl (s : State) : (freeColumns s).rstLvl = s.rstLvl := rfl
@[simp] theorem freeColumns_seq (s : State) : (freeColumns s).seq = s.seq := rfl
@[simp] theorem freeColumns_decSrcW (s : State) : (freeColumns s).decSrcW = s.decSrcW := rfl
@[simp] theorem freeColumns_decSrcH (s : State) : (freeColumns s).decSrcH = s.decSrcH := rfl
@[simp] theorem freeColumns_decBpp (s : State) : (freeColumns s).decBpp = s.decBpp := rfl
@[simp] theorem freeColumns_decW (s : State) : (freeColumns s).decW = s.decW := rfl
@[simp] theorem freeColumns_decH (s : State) : (freeColumns s).decH = s.decH := rfl
@[simp] theorem freeColumns_decRowSize (s : State) : (freeColumns s).decRowSize = s.decRowSize := rfl
@[simp] theorem freeColumns_decRow (s : State) : (freeColumns s).decRow = s.decRow := rfl
@[simp] theorem freeColumns_decSrcOpen (s : State) : (freeColumns s).decSrcOpen = s.decSrcOpen := rfl
@[simp] theorem freeColumns_decWritten (s : State) : (freeColumns s).decWritten = s.decWritten := rfl
@[simp] theorem freeColumns_hdr (s : State) : (freeColumns s).hdr = s.hdr := rfl
@[simp] theorem freeColumns_inbuf (s : State) : (freeColumns s).inbuf = s.inbuf := rfl
@[simp] theorem freeColumns_outbuf (s : State) : (freeColumns s).outbuf = s.outbuf := rfl
@[simp] theorem freeColumns_hdrWritten (s : State) : (freeColumns s).hdrWritten = s.hdrWritten := rfl
@[simp] theorem freeColumns_inbufWritten (s : State) : (freeColumns s).inbufWritten = s.inbufWritten := rfl
@[simp] theorem freeColumns_outbufWritten (s : State) : (freeColumns s).outbufWritten = s.outbufWritten := rfl
@[simp] theorem freeColumns_stCode (s : State) : (freeColumns s).stCode = s.stCode := rfl
@[simp] theorem freeColumns_stInfo (s : State) : (freeColumns s).stInfo = s.stInfo := rfl
@[simp] theorem freeColumns_result (s : State) : (freeColumns s).result = s.result := rfl
@[simp] theorem freeColumns_gram (s : State) : (freeColumns s).gram = s.gram := rfl
@[simp] theorem freeColumns_gramEpoch (s : State) : (freeColumns s).gramEpoch = s.gramEpoch := rfl
@[simp] theorem freeColumns_trace (s : State) : (freeColumns s).trace = s.trace := rfl
@[simp] theorem freeColumns_busDriver (s : State) : (freeColumns s).busDriver = s.busDriver := rfl
@[simp] theorem freeColumns_input (s : State) : (freeColumns s).input = s.input := rfl
@[simp] theorem freeColumns_newInstance (s : State) : (freeColumns s).newInstance = s.newInstance := rfl
@[simp] theorem freeColumns_claimIn (s : State) : (freeColumns s).claimIn = s.claimIn := rfl
@[simp] theorem freeColumns_txIn (s : State) : (freeColumns s).txIn = s.txIn := rfl
@[simp] theorem freeColumns_openIn (s : State) : (freeColumns s).openIn = s.openIn := rfl
@[simp] theorem freeColumns_readIn (s : State) : (freeColumns s).readIn = s.readIn := rfl
@[simp] theorem freeColumns_cancelIn (s : State) : (freeColumns s).cancelIn = s.cancelIn := rfl
@[simp] theorem freeColumns_freeCtr (s : State) : (freeColumns s).freeCtr = s.freeCtr + 1 := rfl

/-! ### `freeRows` -/

@[simp] theorem freeRows_cfg (s : State) : (freeRows s).cfg = s.cfg := rfl
@[simp] theorem freeRows_drvState (s : State) : (freeRows s).drvState = s.drvState := rfl
@[simp] theorem freeRows_busSel (s : State) : (freeRows s).busSel = s.busSel := rfl
@[simp] theorem freeRows_dc (s : State) : (freeRows s).dc = s.dc := rfl
@[simp] theorem freeRows_streamOpen (s : State) : (freeRows s).streamOpen = s.streamOpen := rfl
@[simp] theorem freeRows_rstLvl (s : State) : (freeRows s).rstLvl = s.rstLvl := rfl
@[simp] theorem freeRows_seq (s : State) : (freeRows s).seq = s.seq := rfl
@[simp] theorem freeRows_decSrcW (s : State) : (freeRows s).decSrcW = s.decSrcW := rfl
@[simp] theorem freeRows_decSrcH (s : State) : (freeRows s).decSrcH = s.decSrcH := rfl
@[simp] theorem freeRows_decBpp (s : State) : (freeRows s).decBpp = s.decBpp := rfl
@[simp] theorem freeRows_decW (s : State) : (freeRows s).decW = s.decW := rfl
@[simp] theorem freeRows_decH (s : State) : (freeRows s).decH = s.decH := rfl
@[simp] theorem freeRows_decRowSize (s : State) : (freeRows s).decRowSize = s.decRowSize := rfl
@[simp] theorem freeRows_decRow (s : State) : (freeRows s).decRow = s.decRow := rfl
@[simp] theorem freeRows_decSrcOpen (s : State) : (freeRows s).decSrcOpen = s.decSrcOpen := rfl
@[simp] theorem freeRows_decWritten (s : State) : (freeRows s).decWritten = s.decWritten := rfl
@[simp] theorem freeRows_hdr (s : State) : (freeRows s).hdr = s.hdr := rfl
@[simp] theorem freeRows_inbuf (s : State) : (freeRows s).inbuf = s.inbuf := rfl
@[simp] theorem freeRows_outbuf (s : State) : (freeRows s).outbuf = s.outbuf := rfl
@[simp] theorem freeRows_hdrWritten (s : State) : (freeRows s).hdrWritten = s.hdrWritten := rfl
@[simp] theorem freeRows_inbufWritten (s : State) : (freeRows s).inbufWritten = s.inbufWritten := rfl
@[simp] theorem freeRows_outbufWritten (s : State) : (freeRows s).outbufWritten = s.outbufWritten := rfl
@[simp] theorem freeRows_stCode (s : State) : (freeRows s).stCode = s.stCode := rfl
@[simp] theorem freeRows_stInfo (s : State) : (freeRows s).stInfo = s.stInfo := rfl
@[simp] theorem freeRows_result (s : State) : (freeRows s).result = s.result := rfl
@[simp] theorem freeRows_gram (s : State) : (freeRows s).gram = s.gram := rfl
@[simp] theorem freeRows_gramEpoch (s : State) : (freeRows s).gramEpoch = s.gramEpoch := rfl
@[simp] theorem freeRows_trace (s : State) : (freeRows s).trace = s.trace := rfl
@[simp] theorem freeRows_busDriver (s : State) : (freeRows s).busDriver = s.busDriver := rfl
@[simp] theorem freeRows_input (s : State) : (freeRows s).input = s.input := rfl
@[simp] theorem freeRows_newInstance (s : State) : (freeRows s).newInstance = s.newInstance := rfl
@[simp] theorem freeRows_claimIn (s : State) : (freeRows s).claimIn = s.claimIn := rfl
@[simp] theorem freeRows_txIn (s : State) : (freeRows s).txIn = s.txIn := rfl
@[simp] theorem freeRows_openIn (s : State) : (freeRows s).openIn = s.openIn := rfl
@[simp] theorem freeRows_readIn (s : State) : (freeRows s).readIn = s.readIn := rfl
@[simp] theorem freeRows_cancelIn (s : State) : (freeRows s).cancelIn = s.cancelIn := rfl
@[simp] theorem freeRows_freeCtr (s : State) : (freeRows s).freeCtr = s.freeCtr + 1 := rfl

/-! ### `freeController` -/

@[simp] theorem freeController_cfg (s : State) : (freeController s).cfg = s.cfg := rfl
@[simp] theorem freeController_drvState (s : State) : (freeController s).drvState = s.drvState := rfl
@[simp] theorem freeController_busSel (s : State) : (freeController s).busSel = s.busSel := rfl
@[simp] theorem freeController_dc (s : State) : (freeController s).dc = s.dc := rfl
@[simp] theorem freeController_streamOpen (s : State) : (freeController s).streamOpen = s.streamOpen := rfl
@[simp] theorem freeController_rstLvl (s : State) : (freeController s).rstLvl = s.rstLvl := rfl
@[simp] theorem freeController_seq (s : State) : (freeController s).seq = s.seq := rfl
@[simp] theorem freeController_decSrcW (s : State) : (freeController s).decSrcW = s.decSrcW := rfl
@[simp] theorem freeController_decSrcH (s : State) : (freeController s).decSrcH = s.decSrcH := rfl
@[simp] theorem freeController_decBpp (s : State) : (freeController s).decBpp = s.decBpp := rfl
@[simp] theorem freeController_decW (s : State) : (freeController s).decW = s.decW := rfl
@[simp] theorem freeController_decH (s : State) : (freeController s).decH = s.decH := rfl
@[simp] theorem freeController_decRowSize (s : State) : (freeController s).decRowSize = s.decRowSize := rfl
@[simp] theorem freeController_decRow (s : State) : (freeController s).decRow = s.decRow := rfl
@[simp] theorem freeController_decSrcOpen (s : State) : (freeController s).decSrcOpen = s.decSrcOpen := rfl
@[simp] theorem freeController_decWritten (s : State) : (freeController s).decWritten = s.decWritten := rfl
@[simp] theorem freeController_hdr (s : State) : (freeController s).hdr = s.hdr := rfl
@[simp] theorem freeController_inbuf (s : State) : (freeController s).inbuf = s.inbuf := rfl
@[simp] theorem freeController_outbuf (s : State) : (freeController s).outbuf = s.outbuf := rfl
@[simp] theorem freeController_hdrWritten (s : State) : (freeController s).hdrWritten = s.hdrWritten := rfl
@[simp] theorem freeController_inbufWritten (s : State) : (freeController s).inbufWritten = s.inbufWritten := rfl
@[simp] theorem freeController_outbufWritten (s : State) : (freeController s).outbufWritten = s.outbufWritten := rfl
@[simp] theorem freeController_stCode (s : State) : (freeController s).stCode = s.stCode := rfl
@[simp] theorem freeController_stInfo (s : State) : (freeController s).stInfo = s.stInfo := rfl
@[simp] theorem freeController_result (s : State) : (freeController s).result = s.result := rfl
@[simp] theorem freeController_trace (s : State) : (freeController s).trace = s.trace := rfl
@[simp] theorem freeController_busDriver (s : State) : (freeController s).busDriver = s.busDriver := rfl
@[simp] theorem freeController_input (s : State) : (freeController s).input = s.input := rfl
@[simp] theorem freeController_newInstance (s : State) : (freeController s).newInstance = s.newInstance := rfl
@[simp] theorem freeController_claimIn (s : State) : (freeController s).claimIn = s.claimIn := rfl
@[simp] theorem freeController_txIn (s : State) : (freeController s).txIn = s.txIn := rfl
@[simp] theorem freeController_openIn (s : State) : (freeController s).openIn = s.openIn := rfl
@[simp] theorem freeController_readIn (s : State) : (freeController s).readIn = s.readIn := rfl
@[simp] theorem freeController_cancelIn (s : State) : (freeController s).cancelIn = s.cancelIn := rfl

end Sys2Proof.Machine
end

