-- ==== Sys2Proof/Laws/Memory.lean ====
section
/-! SUPPORT. The laws of memory: a read after a write, other addresses untouched, and every memory operation keeps the
canonical form. -/

namespace Sys2Proof.Machine

@[simp] theorem memRead_nil (a : Nat) : memRead [] a = none := rfl

theorem memRead_write_same (m : List Host.Cell) (a : Nat) (v : Byte) : memRead (memWrite m a v) a = some v := by
  induction m with
  | nil => simp [memWrite, memRead]
  | cons c m ih =>
    obtain ⟨b, w⟩ := c
    simp only [memWrite]
    split
    · simp [memRead]
    · split
      · simp [memRead]
      · rename_i h1 h2
        simp [memRead, h2, ih]

theorem memRead_write_other (m : List Host.Cell) {a x : Nat} (v : Byte) (h : x ≠ a) :
    memRead (memWrite m a v) x = memRead m x := by
  induction m with
  | nil => simp [memWrite, memRead, h]
  | cons c m ih =>
    obtain ⟨b, w⟩ := c
    simp only [memWrite]
    split
    · simp [memRead, h]
    · split
      · rename_i h1 h2
        subst h2
        simp [memRead, h]
      · simp only [memRead, ih]

/-- What a read after a write gives, at any address. -/
theorem memRead_write (m : List Host.Cell) (a x : Nat) (v : Byte) :
    memRead (memWrite m a v) x = if x = a then some v else memRead m x := by
  split
  · next h => rw [h, memRead_write_same]
  · next h => exact memRead_write_other m v h

/-- The address of the first cell, if any, is at least `n`. -/
def headAbove (n : Nat) : List Host.Cell → Prop
  | [] => True
  | (b, _) :: _ => n < b

theorem wf_cons {b : Nat} {w : Byte} {m : List Host.Cell} :
    Memory.wf ((b, w) :: m) = true ↔ headAbove b m ∧ Memory.wf m = true := by
  cases m with
  | nil => simp [Memory.wf, headAbove]
  | cons c m => obtain ⟨b', w'⟩ := c; simp [Memory.wf, headAbove]

theorem headAbove_write {n a : Nat} {v : Byte} {m : List Host.Cell} (hm : headAbove n m) (ha : n < a) :
    headAbove n (memWrite m a v) := by
  cases m with
  | nil => simpa [memWrite, headAbove] using ha
  | cons c m =>
    obtain ⟨b, w⟩ := c
    simp only [memWrite]
    split
    · simpa [headAbove] using ha
    · split
      · simpa [headAbove] using ha
      · simpa [headAbove] using hm

/-- A write keeps the canonical form. -/
theorem memWrite_wf {m : List Host.Cell} (a : Nat) (v : Byte) (h : Memory.wf m = true) :
    Memory.wf (memWrite m a v) = true := by
  induction m with
  | nil => rfl
  | cons c m ih =>
    obtain ⟨b, w⟩ := c
    obtain ⟨h1, h2⟩ := wf_cons.1 h
    simp only [memWrite]
    split
    · next hab => exact wf_cons.2 ⟨by simpa [headAbove] using hab, h⟩
    · split
      · next hab => subst hab; exact wf_cons.2 ⟨h1, h2⟩
      · next hn hne => exact wf_cons.2 ⟨headAbove_write h1 (by omega), ih h2⟩

theorem memWriteBytes_wf {m : List Host.Cell} (a : Nat) (vs : List Byte) (h : Memory.wf m = true) :
    Memory.wf (memWriteBytes m a vs) = true := by
  induction vs generalizing m a with
  | nil => exact h
  | cons v vs ih => exact ih _ (memWrite_wf a v h)

theorem memRead_writeBytes_outside (m : List Host.Cell) (a x : Nat) (vs : List Byte) (h : x < a ∨ a + vs.length ≤ x) :
    memRead (memWriteBytes m a vs) x = memRead m x := by
  induction vs generalizing m a with
  | nil => rfl
  | cons v vs ih =>
    simp only [List.length_cons] at h
    rw [memWriteBytes, ih _ _ (by omega), memRead_write_other _ _ (by omega)]

theorem memRead_writeBytes_inside (m : List Host.Cell) (a i : Nat) (vs : List Byte) (h : i < vs.length) :
    memRead (memWriteBytes m a vs) (a + i) = some vs[i] := by
  induction vs generalizing m a i with
  | nil => simp at h
  | cons v vs ih =>
    cases i with
    | zero => rw [memWriteBytes, memRead_writeBytes_outside _ _ _ _ (by omega)]; simp [memRead_write_same]
    | succ i =>
      have := ih (memWrite m a v) (a + 1) i (by simpa using h)
      rw [memWriteBytes, show a + (i + 1) = a + 1 + i by omega, this]
      simp

/-- A buffer read answers the bytes that were written there. -/
theorem memReadBytes_eq_ok (m : List Host.Cell) (a : Nat) (vs : List Byte)
    (h : ∀ i (hi : i < vs.length), memRead m (a + i) = some vs[i]) : memReadBytes m a vs.length = .ok vs := by
  induction vs generalizing a with
  | nil => rfl
  | cons v vs ih =>
    have h0 := h 0 (by simp)
    have hs := ih (a + 1) fun i hi => by
      have := h (i + 1) (by simpa using hi)
      simpa [show a + (i + 1) = a + 1 + i by omega] using this
    simp only [Nat.add_zero, List.getElem_cons_zero] at h0
    simp [memReadBytes, h0, hs]

theorem gramWrite_wf {m : List Host.Cell} (x y : Nat) (p : Half) (h : Memory.wf m = true) :
    Memory.wf (gramWrite m x y p) = true := memWrite_wf _ _ (memWrite_wf _ _ h)

theorem freePixel_wf {m : List Host.Cell} (c : Config) (n x y : Nat) (h : Memory.wf m = true) :
    Memory.wf (freePixel c n x y m) = true := by
  unfold freePixel
  split
  · exact gramWrite_wf _ _ _ h
  · exact h

/-- Two pixels share a byte only if they are the same pixel. -/
theorem gramAddr_inj {x y x' y' : Nat} (hx : x < 65536) (hx' : x' < 65536)
    (h : gramAddr x y = gramAddr x' y' ∨ gramAddr x y = gramAddr x' y' + 1 ∨ gramAddr x y + 1 = gramAddr x' y') :
    x = x' ∧ y = y' := by
  simp only [gramAddr] at h
  omega

/-- What GRAM holds after a pixel is written. -/
theorem memRead_gramWrite (m : List Host.Cell) (x y a : Nat) (p : Half) :
    memRead (gramWrite m x y p) a =
      if a = gramAddr x y + 1 then some (loByte p) else if a = gramAddr x y then some (hiByte p) else memRead m a := by
  simp only [gramWrite, memRead_write]

/-- The memories of every instance start in the canonical form. -/
theorem resetWith_memories_wf (c : Config) :
    Memory.wf (State.resetWith c).gram = true ∧ Memory.wf (State.resetWith c).hdr = true ∧
      Memory.wf (State.resetWith c).inbuf = true ∧ Memory.wf (State.resetWith c).outbuf = true := ⟨rfl, rfl, rfl, rfl⟩

/-- The two halves of a pixel make the pixel again (R53). -/
@[simp] theorem be16_hiByte_loByte (p : Half) : be16 (hiByte p) (loByte p) = p := by
  simp only [be16, hiByte, loByte]
  ext i hi
  simp only [BitVec.getElem_append, BitVec.getElem_extractLsb']
  split
  · simp [BitVec.getLsbD_eq_getElem, hi]
  · rw [BitVec.getLsbD_eq_getElem (by omega)]
    congr 1
    omega

/-- The bits of a big-endian pair: the low byte first. -/
theorem getLsbD_be16 (h l : Byte) (i : Nat) : (be16 h l).getLsbD i = if i < 8 then l.getLsbD i else h.getLsbD (i - 8) :=
  (BitVec.getLsbD_append (x := h) (y := l) (i := i)).trans (by cases decide (i < 8) <;> simp_all)

@[simp] theorem hiByte_be16 (h l : Byte) : hiByte (be16 h l) = h := by
  ext i hi
  simp [hiByte, getLsbD_be16, BitVec.getLsbD_eq_getElem, hi]

@[simp] theorem loByte_be16 (h l : Byte) : loByte (be16 h l) = l := by
  ext i hi
  simp [loByte, getLsbD_be16, BitVec.getLsbD_eq_getElem, hi]

end Sys2Proof.Machine
end

