-- ==== Sys2Proof/Laws/Controller.lean ====
section
/-! SUPPORT. What the reference controller's operations leave alone: everything but the controller itself, GRAM and the
count of free values; and that GRAM keeps its canonical form. -/

namespace Sys2Proof.Machine

open Sys2Proof.Safety

theorem onlyController_refl (s : State) : OnlyController s s := rfl

theorem onlyController_trans {s t u : State} (h : OnlyController s t) (k : OnlyController t u) : OnlyController s u := by
  unfold OnlyController at *
  rw [k, h]

theorem freeWindow_only (s : State) : OnlyController s (freeWindow s) := rfl
theorem freeGramAll_only (s : State) : OnlyController s (freeGramAll s) := rfl
theorem freeWindowRegs_only (s : State) : OnlyController s (freeWindowRegs s) := rfl
theorem freeColumns_only (s : State) : OnlyController s (freeColumns s) := rfl
theorem freeRows_only (s : State) : OnlyController s (freeRows s) := rfl
theorem freeController_only (s : State) : OnlyController s (freeController s) := rfl
theorem ctlReset_only (s : State) : OnlyController s (ctlReset s) := rfl
theorem ctlBegin_only (b : Byte) (s : State) : OnlyController s (ctlBegin b s) := rfl

theorem freeStreamEffect_only (s : State) : OnlyController s (freeStreamEffect s) := by
  unfold freeStreamEffect; split <;> rfl

theorem ctlHalfPixel_only (s : State) : OnlyController s (ctlHalfPixel s) := by
  unfold ctlHalfPixel
  split
  · split
    · split <;> rfl
    · exact freeStreamEffect_only s
  · rfl

theorem ctlCutShort_only (s : State) : OnlyController s (ctlCutShort s) := by
  unfold ctlCutShort
  repeat' split
  all_goals rfl

theorem ctlEndContext_only (s : State) : OnlyController s (ctlEndContext s) :=
  onlyController_trans (ctlCutShort_only s) rfl

theorem ctlEffect_only (b : Byte) (s : State) : OnlyController s (ctlEffect b s) := by
  unfold ctlEffect
  repeat' split
  all_goals rfl

/-- A command byte changes the controller alone (R121-R129). -/
theorem ctlCommand_only (b : Byte) (s : State) : OnlyController s (ctlCommand b s) :=
  onlyController_trans (onlyController_trans (ctlEndContext_only s) (ctlBegin_only b _)) (ctlEffect_only b _)

theorem ctlWindowByte_only (b : Byte) (f : Ctl → Ctl) (s : State) : OnlyController s (ctlWindowByte b f s) := by
  unfold ctlWindowByte; split <;> rfl

theorem ctlColmodByte_only (b : Byte) (s : State) : OnlyController s (ctlColmodByte b s) := by
  unfold ctlColmodByte; split <;> rfl

theorem ctlMadctlByte_only (b : Byte) (s : State) : OnlyController s (ctlMadctlByte b s) := by
  unfold ctlMadctlByte; split <;> rfl

theorem ctlPixel_only {p : Half} {s t : State} (h : ctlPixel p s = .ok t) : OnlyController s t := by
  unfold ctlPixel at h
  split at h
  · split at h
    · injection h with h; subst h; rfl
    · cases h
  · injection h with h; subst h; rfl

theorem ctlUndefinedByte_only (s : State) : OnlyController s (ctlUndefinedByte s) :=
  onlyController_trans (freeStreamEffect_only s) rfl

theorem ctlStreamByte_only {b : Byte} {s t : State} (h : ctlStreamByte b s = .ok t) : OnlyController s t := by
  unfold ctlStreamByte at h
  split at h
  · split at h
    · injection h with h; subst h; rfl
    · exact ctlPixel_only h
  · injection h with h; subst h; exact ctlUndefinedByte_only s

/-- A data byte changes the controller alone (R121-R128, R132). -/
theorem ctlData_only {b : Byte} {s t : State} (h : ctlData b s = .ok t) : OnlyController s t := by
  unfold ctlData at h
  split at h
  · injection h with h; subst h; exact ctlWindowByte_only b _ s
  · split at h
    · injection h with h; subst h; exact ctlWindowByte_only b _ s
    · split at h
      · exact ctlStreamByte_only h
      · split at h
        · injection h with h; subst h; exact ctlColmodByte_only b s
        · split at h
          · injection h with h; subst h; exact ctlMadctlByte_only b s
          · injection h with h; subst h; rfl

theorem ctlDatas_only {bs : List Byte} {s t : State} (h : ctlDatas bs s = .ok t) : OnlyController s t := by
  induction bs generalizing s with
  | nil => injection h with h; subst h; rfl
  | cons b bs ih =>
    simp only [ctlDatas] at h
    split at h
    · next u hu => exact onlyController_trans (ctlData_only hu) (ih h)
    · cases h

/-- A command frame changes the controller alone: TFTCORE never reads its state (R37). -/
theorem ctlFrame_only {code : Byte} {payload : List Byte} {s t : State} (h : ctlFrame code payload s = .ok t) :
    OnlyController s t := onlyController_trans (ctlCommand_only code s) (ctlDatas_only h)

/-- The end of a stream changes no register of the controller (R121). -/
theorem ctlHalfPixel_ctl (s : State) : (ctlHalfPixel s).ctl = s.ctl := by
  unfold ctlHalfPixel
  repeat' split
  all_goals first | rfl | (unfold freeStreamEffect; split <;> rfl)

/-- A stream closed with no half pixel waiting leaves the controller as it is (93 I2). -/
theorem ctlHalfPixel_none {s : State} (h : s.ctl.hi = none) : ctlHalfPixel s = s := by simp [ctlHalfPixel, h]

/-! ## Field lemmas of an `OnlyController` step -/

section fields
variable {s t : State} (h : OnlyController s t)
include h

theorem onlyController_cfg : t.cfg = s.cfg := by rw [h]
theorem onlyController_drvState : t.drvState = s.drvState := by rw [h]
theorem onlyController_busSel : t.busSel = s.busSel := by rw [h]
theorem onlyController_dc : t.dc = s.dc := by rw [h]
theorem onlyController_streamOpen : t.streamOpen = s.streamOpen := by rw [h]
theorem onlyController_rstLvl : t.rstLvl = s.rstLvl := by rw [h]
theorem onlyController_seq : t.seq = s.seq := by rw [h]
theorem onlyController_trace : t.trace = s.trace := by rw [h]
theorem onlyController_txIn : t.txIn = s.txIn := by rw [h]
theorem onlyController_stCode : t.stCode = s.stCode := by rw [h]

end fields

/-! ## The controller does not look at TFTCORE's trace or inputs -/

/-- A data byte has the same effect whatever the trace and the waiting answers are (R37, R121). -/
theorem ctlData_io (b : Byte) (s : State) (ti : List TxAns) (tr : List Event) (ti' : List TxAns) (tr' : List Event)
    {v : State} (h : ctlData b { s with txIn := ti, trace := tr } = .ok v) :
    ctlData b { s with txIn := ti', trace := tr' } = .ok { v with txIn := ti', trace := tr' } := by
  unfold ctlData at h ⊢
  simp only at h ⊢
  split at h
  · next hc => rw [if_pos hc]; injection h with h; subst h; unfold ctlWindowByte; simp only; split <;> rfl
  · next hc =>
    rw [if_neg hc]
    split at h
    · next hr => rw [if_pos hr]; injection h with h; subst h; unfold ctlWindowByte; simp only; split <;> rfl
    · next hr =>
      rw [if_neg hr]
      split at h
      · next hw =>
        rw [if_pos hw]
        have hsd : streamDefined { s with txIn := ti', trace := tr' } = streamDefined { s with txIn := ti, trace := tr } := rfl
        unfold ctlStreamByte at h ⊢
        rw [hsd]
        split at h
        · next hs =>
          rw [if_pos hs]
          simp only at h ⊢
          split at h
          · next hn => injection h with h; subst h; rfl
          · next hi hn =>
            unfold ctlPixel at h ⊢
            simp only at h ⊢
            split at h
            · next hk =>
              rw [if_pos hk]
              split at h
              · next hp => rw [if_pos hp]; injection h with h; subst h; rfl
              · cases h
            · next hk => rw [if_neg hk]; injection h with h; subst h; rfl
        · next hs =>
          rw [if_neg hs]
          injection h with h
          subst h
          unfold ctlUndefinedByte freeStreamEffect
          simp only
          split <;> rfl
      · next hw =>
        rw [if_neg hw]
        split at h
        · next hk => rw [if_pos hk]; injection h with h; subst h; unfold ctlColmodByte; simp only; split <;> rfl
        · next hk =>
          rw [if_neg hk]
          split at h
          · next hm => rw [if_pos hm]; injection h with h; subst h; unfold ctlMadctlByte; simp only; split <;> rfl
          · next hm => rw [if_neg hm]; injection h with h; subst h; rfl

/-! ## The canonical form of GRAM -/

theorem foldl_freePixel_wf (c : Config) (n : Nat) (f g : Nat → Nat) (ks : List Nat) {m : List Host.Cell}
    (h : Memory.wf m = true) : Memory.wf (ks.foldl (fun m k => freePixel c n (f k) (g k) m) m) = true := by
  induction ks generalizing m with
  | nil => exact h
  | cons k ks ih => exact ih (freePixel_wf c n _ _ h)

theorem freeWindow_wf {s : State} (h : Memory.wf s.gram = true) : Memory.wf (freeWindow s).gram = true :=
  foldl_freePixel_wf _ _ _ _ _ h

theorem freeStreamEffect_wf {s : State} (h : Memory.wf s.gram = true) : Memory.wf (freeStreamEffect s).gram = true := by
  unfold freeStreamEffect
  split
  · exact freeWindow_wf h
  · rfl

theorem ctlHalfPixel_wf {s : State} (h : Memory.wf s.gram = true) : Memory.wf (ctlHalfPixel s).gram = true := by
  unfold ctlHalfPixel
  split
  · split
    · split
      · exact freePixel_wf _ _ _ _ h
      · exact freeWindow_wf h
    · exact freeStreamEffect_wf h
  · exact h

theorem ctlCommand_wf {s : State} (b : Byte) (h : Memory.wf s.gram = true) : Memory.wf (ctlCommand b s).gram = true := by
  have h1 : (ctlEndContext s).gram = s.gram := by
    unfold ctlEndContext ctlCutShort
    repeat' split
    all_goals rfl
  unfold ctlCommand ctlEffect
  repeat' split
  · rfl
  all_goals simpa [h1] using h

theorem ctlData_wf {s t : State} {b : Byte} (h : Memory.wf s.gram = true) (e : ctlData b s = .ok t) :
    Memory.wf t.gram = true := by
  have hw : ∀ f, (ctlWindowByte b f s).gram = s.gram := by intro f; unfold ctlWindowByte; split <;> rfl
  have hc : (ctlColmodByte b s).gram = s.gram := by unfold ctlColmodByte; split <;> rfl
  have hm : (ctlMadctlByte b s).gram = s.gram := by unfold ctlMadctlByte; split <;> rfl
  unfold ctlData at e
  split at e
  · injection e with e; subst e; rw [hw]; exact h
  · split at e
    · injection e with e; subst e; rw [hw]; exact h
    · split at e
      · unfold ctlStreamByte ctlPixel at e
        split at e
        · split at e
          · injection e with e; subst e; exact h
          · split at e
            · split at e
              · injection e with e; subst e; exact gramWrite_wf _ _ _ h
              · cases e
            · injection e with e; subst e; exact freeWindow_wf h
        · injection e with e; subst e; exact freeStreamEffect_wf h
      · split at e
        · injection e with e; subst e; rw [hc]; exact h
        · split at e
          · injection e with e; subst e; rw [hm]; exact h
          · injection e with e; subst e; exact h

theorem ctlDatas_wf {bs : List Byte} {s t : State} (h : Memory.wf s.gram = true) (e : ctlDatas bs s = .ok t) :
    Memory.wf t.gram = true := by
  induction bs generalizing s with
  | nil => injection e with e; subst e; exact h
  | cons b bs ih =>
    simp only [ctlDatas] at e
    split at e
    · next u hu => exact ih (ctlData_wf h hu) e
    · cases e

/-- A command frame keeps GRAM in canonical form. -/
theorem ctlFrame_wf {code : Byte} {payload : List Byte} {s t : State} (h : Memory.wf s.gram = true)
    (e : ctlFrame code payload s = .ok t) : Memory.wf t.gram = true := ctlDatas_wf (ctlCommand_wf code h) e

end Sys2Proof.Machine
end

