-- ==== Sys2Proof/Laws/Ops.lean ====
section
/-! SUPPORT. What each shared operation can do, said once: how a part of an operation runs, what a transfer answers, the
framing primitives, the buffers, and the two ends of an operation. -/

namespace Sys2Proof.Machine

open Sys2Proof.Safety

/-! ## Running the parts of an operation -/

@[simp] theorem op_pure {α : Type} (a : α) (s : State) : (pure a : Op α) s = .ok a s := rfl

@[simp] theorem op_bind {α β : Type} (x : Op α) (f : α → Op β) (s : State) :
    (x >>= f) s = match x s with
      | .ok a t => f a t
      | .error e t => .error e t := by
  show EStateM.bind x f s = _
  unfold EStateM.bind
  cases x s <;> rfl

@[simp] theorem update_apply (f : State → State) (s : State) : update f s = .ok () (f s) := rfl
@[simp] theorem look_apply {α : Type} (f : State → α) (s : State) : look f s = .ok (f s) s := rfl
@[simp] theorem raise_apply {α : Type} (c : StCode) (r : Option Reason) (d : Detail) (s : State) :
    (raise c r d : Op α) s = .error (.raise c r d) s := rfl
@[simp] theorem faultWith_apply {α : Type} (f : Fault) (s : State) : (faultWith f : Op α) s = .error (.fault f) s := rfl

/-- A part that runs two parts in turn ends well only if both do. -/
theorem op_bind_ok {α β : Type} {x : Op α} {f : α → Op β} {s t : State} {b : β} (h : (x >>= f) s = .ok b t) :
    ∃ a u, x s = .ok a u ∧ f a u = .ok b t := by
  rw [op_bind] at h
  cases hx : x s with
  | ok a u => exact ⟨a, u, rfl, by simpa [hx] using h⟩
  | error e u => simp [hx] at h

/-! ## Lines -/

/-- CLOSE_STREAM is idempotent (R107). -/
theorem closeStream_closed (s : State) (h : s.streamOpen = false) : closeStream s = s := by
  simp [closeStream, h]

@[simp] theorem closeStream_streamOpen (s : State) : (closeStream s).streamOpen = false := by
  unfold closeStream
  split
  · rfl
  · simp_all

/-- Everything CLOSE_STREAM can do (R107, R121, 93 I2): nothing with no stream open; else the release, and of the controller
nothing but GRAM, where a half pixel waits. -/
theorem closeStream_cases (s : State) :
    (s.streamOpen = false ∧ closeStream s = s) ∨
    (s.streamOpen = true ∧ ∃ g e n,
      closeStream s = { releaseBus s with streamOpen := false, gram := g, gramEpoch := e, freeCtr := n }) := by
  cases h : s.streamOpen with
  | false => exact .inl ⟨rfl, closeStream_closed s h⟩
  | true =>
    refine .inr ⟨rfl, (ctlHalfPixel (releaseBus s)).gram, (ctlHalfPixel (releaseBus s)).gramEpoch,
      (ctlHalfPixel (releaseBus s)).freeCtr, ?_⟩
    have hc : closeStream s = { ctlHalfPixel (releaseBus s) with streamOpen := false } := by simp [closeStream, h]
    have ho : ctlHalfPixel (releaseBus s) = { releaseBus s with
        gram := (ctlHalfPixel (releaseBus s)).gram
        gramEpoch := (ctlHalfPixel (releaseBus s)).gramEpoch
        freeCtr := (ctlHalfPixel (releaseBus s)).freeCtr } :=
      (ctlHalfPixel_only (releaseBus s)).trans (by rw [ctlHalfPixel_ctl])
    exact hc.trans (congrArg (fun t : State => { t with streamOpen := false }) ho)

@[simp] theorem closeStream_cfg (s : State) : (closeStream s).cfg = s.cfg := by
  obtain ⟨-, h⟩ | ⟨-, g, k, n, h⟩ := closeStream_cases s <;> simp [h]
@[simp] theorem closeStream_drvState (s : State) : (closeStream s).drvState = s.drvState := by
  obtain ⟨-, h⟩ | ⟨-, g, k, n, h⟩ := closeStream_cases s <;> simp [h]
@[simp] theorem closeStream_dc (s : State) : (closeStream s).dc = s.dc := by
  obtain ⟨-, h⟩ | ⟨-, g, k, n, h⟩ := closeStream_cases s <;> simp [h]
@[simp] theorem closeStream_txIn (s : State) : (closeStream s).txIn = s.txIn := by
  obtain ⟨-, h⟩ | ⟨-, g, k, n, h⟩ := closeStream_cases s <;> simp [h]
@[simp] theorem closeStream_rstLvl (s : State) : (closeStream s).rstLvl = s.rstLvl := by
  obtain ⟨-, h⟩ | ⟨-, g, k, n, h⟩ := closeStream_cases s <;> simp [h]
@[simp] theorem closeStream_seq (s : State) : (closeStream s).seq = s.seq := by
  obtain ⟨-, h⟩ | ⟨-, g, k, n, h⟩ := closeStream_cases s <;> simp [h]
@[simp] theorem closeStream_ctl (s : State) : (closeStream s).ctl = s.ctl := by
  obtain ⟨-, h⟩ | ⟨-, g, k, n, h⟩ := closeStream_cases s <;> simp [h]

/-- After CLOSE_STREAM the bus is free, if it was held by the stream alone (R25). -/
theorem closeStream_busSel (s : State) (h : s.busSel = s.streamOpen) : (closeStream s).busSel = false := by
  rcases closeStream_cases s with ⟨ho, e⟩ | ⟨-, g, k, n, e⟩
  · rw [e, h, ho]
  · rw [e]; rfl

/-! ## Transfers -/

/-- A delivered byte changes the controller alone, and may count one free value (R24, R121). -/
theorem deliver_only {b : Byte} {s t : State} (h : deliver b s = .ok t) : OnlyController s t := by
  unfold deliver at h
  split at h
  · injection h with h; subst h; exact ctlCommand_only b s
  · exact ctlData_only h
  · simp only at h
    split at h
    · injection h with h
      subst h
      exact onlyController_trans (t := { s with freeCtr := s.freeCtr + 1 }) rfl (ctlCommand_only b _)
    · exact onlyController_trans (t := { s with freeCtr := s.freeCtr + 1 }) rfl (ctlData_only h)

theorem nextTx_cons {s : State} {a : TxAns} {rest : List TxAns} (h : s.txIn = a :: rest) : nextTx s = a := by
  simp [nextTx, h]

theorem afterTx_cons {s : State} {a : TxAns} {rest : List TxAns} (h : s.txIn = a :: rest) :
    afterTx s = { s with txIn := rest } := by
  simp [afterTx, h]

/-- Taking an answer changes the answers that wait, or the count of free values. -/
theorem afterTx_eq (s : State) : afterTx s = { s with txIn := (afterTx s).txIn, freeCtr := (afterTx s).freeCtr } := by
  unfold afterTx
  split <;> rfl

/-- `Tx(b)` answered ok: the byte is on the trace and has been delivered (R12, R61). -/
theorem tx_ok {b : Byte} {s : State} {rest : List TxAns} (h : s.txIn = .ok :: rest) :
    tx b s = match deliver b (record (.tx b true) { s with txIn := rest }) with
      | .ok t => .ok true t
      | .error f => .error (.fault f) (record (.tx b true) { s with txIn := rest }) := by
  rw [show tx b s = transfer b (nextTx s).isOk (nextTx s).isReceived (afterTx s) from rfl, nextTx_cons h, afterTx_cons h]
  rfl

/-- `Tx(b)` answered fail, the byte received (R130). -/
theorem tx_failDelivered {b : Byte} {s : State} {rest : List TxAns} (h : s.txIn = .failDelivered :: rest) :
    tx b s = match deliver b (record (.tx b false) { s with txIn := rest }) with
      | .ok t => .ok false t
      | .error f => .error (.fault f) (record (.tx b false) { s with txIn := rest }) := by
  rw [show tx b s = transfer b (nextTx s).isOk (nextTx s).isReceived (afterTx s) from rfl, nextTx_cons h, afterTx_cons h]
  rfl

/-- `Tx(b)` answered fail, the byte not received (R130). -/
theorem tx_failLost {b : Byte} {s : State} {rest : List TxAns} (h : s.txIn = .failLost :: rest) :
    tx b s = .ok false (record (.tx b false) { s with txIn := rest }) := by
  simp [tx, nextTx_cons h, afterTx_cons h, transfer, TxAns.isOk, TxAns.isReceived]

/-- Everything `Tx` can do (R12, R130): it takes one answer, records the event, and changes nothing else of TFTCORE. The
only stop is a fault of the controller. -/
theorem tx_cases (b : Byte) (s : State) :
    (∃ ok t, tx b s = .ok ok t ∧ ok = (nextTx s).isOk ∧ t.txIn = (afterTx s).txIn ∧
      OnlyController (record (.tx b ok) { s with txIn := t.txIn }) t) ∨
    (∃ f t, tx b s = .error (.fault f) t) := by
  have hu : OnlyController { s with txIn := (afterTx s).txIn } (afterTx s) := by
    unfold afterTx
    split <;> rfl
  have hrec : ∀ e, OnlyController (record e { s with txIn := (afterTx s).txIn }) (record e (afterTx s)) := by
    intro e
    unfold OnlyController at hu ⊢
    rw [hu]
    rfl
  unfold tx transfer
  split
  · cases hd : deliver b (record (.tx b (nextTx s).isOk) (afterTx s)) with
    | error f => exact .inr ⟨f, _, rfl⟩
    | ok t =>
      have ho : OnlyController (record (.tx b (nextTx s).isOk) (afterTx s)) t := deliver_only hd
      have ht : t.txIn = (afterTx s).txIn := (onlyController_txIn ho).trans rfl
      refine .inl ⟨_, t, rfl, rfl, ht, ?_⟩
      rw [ht]
      exact onlyController_trans (hrec (.tx b (nextTx s).isOk)) ho
  · exact .inl ⟨_, _, rfl, rfl, rfl, hrec _⟩

/-- A byte sent while the line is in data mode goes to the current command context (R121). -/
theorem deliver_data {b : Byte} {s : State} (h : s.dc = .data) : deliver b s = ctlData b s := by simp [deliver, h]

/-- A byte sent while the line is in command mode is a command (R121). -/
theorem deliver_cmd {b : Byte} {s : State} (h : s.dc = .cmd) : deliver b s = .ok (ctlCommand b s) := by
  simp [deliver, h]

/-- CMD_FRAME with its byte answered ok (R102). -/
theorem cmdFrame_ok {c : Byte} {s : State} {rest : List TxAns} (hb : s.busSel = false) (h : s.txIn = .ok :: rest) :
    cmdFrame c s =
      .ok () (releaseBus (ctlCommand c (record (.tx c true) { selectBus (driveCmd s) with txIn := rest }))) := by
  have ht : (selectBus (driveCmd s)).txIn = .ok :: rest := h
  simp [cmdFrame, requireIdleBus, hb, tx_ok ht, deliver]

/-- CMD_FRAME with its byte answered fail: released, then raised (R102). -/
theorem cmdFrame_fail {c : Byte} {s : State} {a : TxAns} {rest : List TxAns} (hb : s.busSel = false)
    (h : s.txIn = a :: rest) (ha : a ≠ .ok) :
    ∃ t, cmdFrame c s = .error (.raise .transferError (some .transfer) (.transfer ⟨.cmd, some c, 0⟩)) (releaseBus t) ∧
      OnlyController (record (.tx c false) { selectBus (driveCmd s) with txIn := rest }) t := by
  have ht : (selectBus (driveCmd s)).txIn = a :: rest := h
  cases a with
  | ok => exact absurd rfl ha
  | failDelivered =>
    refine ⟨ctlCommand c (record (.tx c false) { selectBus (driveCmd s) with txIn := rest }), ?_, ctlCommand_only _ _⟩
    simp [cmdFrame, requireIdleBus, hb, tx_failDelivered ht, deliver, raiseTransfer]
  | failLost =>
    refine ⟨record (.tx c false) { selectBus (driveCmd s) with txIn := rest }, ?_, rfl⟩
    simp [cmdFrame, requireIdleBus, hb, tx_failLost ht, raiseTransfer]

/-- The bytes of a frame or stream, all answered ok, in data mode (R103, R106): every byte is on the trace in order and the
controller has received them all. -/
theorem sendBytes_ok {frame : FrameKind} {close : State → State} {bs : List Byte} {i : Nat} {s u : State}
    {rest : List TxAns} (hd : s.dc = .data) (h : s.txIn = List.replicate bs.length .ok ++ rest)
    (hc : ∀ (ti : List TxAns) (tr : List Event), ctlDatas bs { s with txIn := ti, trace := tr } =
      .ok { u with txIn := ti, trace := tr }) :
    sendBytes frame close i bs s =
      .ok () { u with txIn := rest, trace := (bs.map fun b => Event.tx b true).reverse ++ s.trace } := by
  induction bs generalizing i s with
  | nil =>
    have := hc rest s.trace
    simp only [ctlDatas, Except.ok.injEq] at this
    have hs : s = { s with txIn := rest, trace := s.trace } := by
      cases s
      simp_all
    simp only [sendBytes, op_pure, List.map_nil, List.reverse_nil, List.nil_append]
    rw [← this, ← hs]
  | cons b bs ih =>
    have h' : s.txIn = .ok :: (List.replicate bs.length .ok ++ rest) := by
      rw [h]; rfl
    have hc1 := hc (List.replicate bs.length .ok ++ rest) (.tx b true :: s.trace)
    simp only [ctlDatas] at hc1
    cases hb : ctlData b { s with txIn := List.replicate bs.length .ok ++ rest, trace := .tx b true :: s.trace } with
    | error f => simp [hb] at hc1
    | ok v =>
      have hv := ctlData_only hb
      have hdel : deliver b (record (.tx b true) { s with txIn := List.replicate bs.length .ok ++ rest }) = .ok v := by
        rw [deliver_data (by simpa using hd)]
        exact hb
      have hstep : sendBytes frame close i (b :: bs) s = sendBytes frame close (i + 1) bs v := by
        simp [sendBytes, tx_ok h', hdel]
      have hvt : v.trace = .tx b true :: s.trace := onlyController_trace hv
      rw [hstep, ih (s := v) (by rw [onlyController_dc hv]; exact hd) (by rw [onlyController_txIn hv]) ?_, hvt]
      · simp
      · intro ti tr
        have := hc ti tr
        simp only [ctlDatas] at this
        rw [ctlData_io b _ (List.replicate bs.length .ok ++ rest) (.tx b true :: s.trace) ti tr hb] at this
        exact this

/-- OPEN_STREAM with its byte answered ok (R105): CS stays selected, the line goes to data mode, the stream is open. -/
theorem openStream_ok {s : State} {rest : List TxAns} (hb : s.busSel = false) (h : s.txIn = .ok :: rest) :
    openStream s =
      .ok () { driveData (ctlCommand s.cfg.cmdRamwr
        (record (.tx s.cfg.cmdRamwr true) { selectBus (driveCmd s) with txIn := rest })) with streamOpen := true } := by
  have ht : (selectBus (driveCmd s)).txIn = .ok :: rest := h
  simp [openStream, requireIdleBus, hb, tx_ok ht, deliver]

/-- APPEND on an open stream is the sending of its bytes (R106). -/
theorem append_open {bs : List Byte} {s : State} (h : s.streamOpen = true) :
    append bs s = sendBytes .stream closeStream 0 bs s := by
  simp [append, h]

/-- DATA_FRAME of at least one byte (R103): drive the line, select, send, release. -/
theorem dataFrame_eq {bs : List Byte} {s : State} (hb : s.busSel = false) (hn : bs ≠ []) :
    dataFrame bs s = match sendBytes .data releaseBus 0 bs (selectBus (driveData s)) with
      | .ok _ t => .ok () (releaseBus t)
      | .error e t => .error e t := by
  simp only [dataFrame, requireIdleBus, op_bind, hb, List.isEmpty_iff, hn, update_apply, if_false, Bool.false_eq_true]
  cases sendBytes .data releaseBus 0 bs (selectBus (driveData s)) <;> rfl

/-! ## The other ports (R8, R12): the next answer, recorded where the port has an event -/

theorem busClaim_cons {s : State} {a : Bool} {rest : List Bool} (h : s.claimIn = a :: rest) :
    busClaim s = .ok a { s with claimIn := rest, trace := .busClaim a :: s.trace } := by
  simp [busClaim, h]

theorem srcOpen_cons {s : State} {hd : Byte} {a : Bool} {rest : List Bool} (h : s.openIn = a :: rest) :
    srcOpen hd s = .ok a { s with openIn := rest, trace := .srcOpen hd a :: s.trace } := by
  simp [srcOpen, h]

theorem srcRead_cons {s : State} {off n : Nat} {a : SrcAns} {rest : List SrcAns} (h : s.readIn = a :: rest) :
    srcRead off n s =
      .ok (readAnswer n a) { s with readIn := rest, trace := .srcRead off n (readAnswer n a) :: s.trace } := by
  simp [srcRead, h]

theorem sampleCancel_cons {s : State} {a : Bool} {rest : List Bool} (h : s.cancelIn = a :: rest) :
    sampleCancel s = .ok a { s with cancelIn := rest } := by
  simp [sampleCancel, h]

/-- A source answer of at least the bytes asked for is cut to them; one of fewer is short (R11, log 32). -/
theorem readAnswer_data (n : Nat) (bs : List Byte) :
    readAnswer n (.data bs) = if n ≤ bs.length then .ok (bs.take n) else .short bs := rfl

/-! ## Buffers and decoder registers -/

/-- A buffer write ends well exactly within the buffer (R50). -/
theorem writeBuffer_ok {b : Buffer} {i : Nat} {bytes : List Byte} {s : State}
    (h : i + bytes.length ≤ bufferSize s.cfg b) :
    writeBuffer b i bytes s =
      .ok () (setBuffer b (memWriteBytes (bufferCells s b) i bytes)
        (writtenAfter (bufferWritten s b) i bytes.length) s) := by
  simp [writeBuffer, h]

@[simp] theorem bufferCells_setBuffer (b : Buffer) (m : List Host.Cell) (n : Nat) (s : State) :
    bufferCells (setBuffer b m n s) b = m := by cases b <;> rfl

@[simp] theorem bufferWritten_setBuffer (b : Buffer) (m : List Host.Cell) (n : Nat) (s : State) :
    bufferWritten (setBuffer b m n s) b = n := by cases b <;> rfl

theorem bufferCells_setBuffer_other {b c : Buffer} (h : c ≠ b) (m : List Host.Cell) (n : Nat) (s : State) :
    bufferCells (setBuffer b m n s) c = bufferCells s c := by
  cases b <;> cases c <;> first | rfl | exact absurd rfl h

theorem bufferWritten_setBuffer_other {b c : Buffer} (h : c ≠ b) (m : List Host.Cell) (n : Nat) (s : State) :
    bufferWritten (setBuffer b m n s) c = bufferWritten s c := by
  cases b <;> cases c <;> first | rfl | exact absurd rfl h

/-- A write that adjoins the bytes written before extends them to its end. -/
theorem writtenAfter_adjoin {n i len : Nat} (h : i ≤ n) : i + len ≤ writtenAfter n i len := by
  simp [writtenAfter, h]

/-- No write takes back what was written. -/
theorem writtenAfter_mono (n i len : Nat) : n ≤ writtenAfter n i len := by
  unfold writtenAfter
  split <;> omega

/-- What was written to a buffer byte is what is read from it. -/
theorem readBufferByte_ok {b : Buffer} {i : Nat} {v : Byte} {s : State} (hw : i < bufferWritten s b)
    (h : memRead (bufferCells s b) i = some v) : readBufferByte b i s = .ok v s := by simp [readBufferByte, hw, h]

/-- A byte the running DECODE_BMP has not written is never read, whatever the buffer holds (93 I14). -/
theorem readBufferByte_unwritten {b : Buffer} {i : Nat} {s : State} (h : bufferWritten s b ≤ i) :
    readBufferByte b i s = .error (.fault (.unwrittenBuffer b i)) s := by
  simp [readBufferByte, Nat.not_lt.2 h]

/-- What was written to a part of a buffer is what is read from it. -/
theorem readBuffer_ok {b : Buffer} {i n : Nat} {bytes : List Byte} {s : State} (hw : i + n ≤ bufferWritten s b)
    (h : memReadBytes (bufferCells s b) i n = .ok bytes) : readBuffer b i n s = .ok bytes s := by
  simp [readBuffer, Nat.le_trans hw (Nat.le_max_right _ _), h]

/-- A decoder register the running operation has written can be read (R29). -/
theorem readDec_ok {α : Type} {r : DecReg} {f : State → α} {s : State} (h : r ∈ s.decWritten) :
    readDec r f s = .ok (f s) s := by simp [readDec, h]

@[simp] theorem writeDec_written (r : DecReg) (f : State → State) (s : State) :
    (writeDec r f s).decWritten = r :: s.decWritten := rfl

/-! ## The ends of an operation -/

/-- IllegalStateError and IllegalOpError change nothing but the status (R88, R214). -/
theorem takeAbort_statusOnly {info : StInfo} {code : StCode} {s : State} (h : code.statusOnly = true) :
    takeAbort info code s = { s with stCode := code, stInfo := info, result := none } := by
  simp [takeAbort, h, reportStatus]

/-- The abort sequence writes the status (R216). -/
theorem takeAbort_status (info : StInfo) (code : StCode) (s : State) :
    (takeAbort info code s).stCode = code ∧ (takeAbort info code s).stInfo = info ∧
      (takeAbort info code s).result = none := by
  unfold takeAbort
  split <;> exact ⟨rfl, rfl, rfl⟩

/-- The abort sequence leaves the stream closed and the source closed (R216). -/
theorem takeAbort_closes {info : StInfo} {code : StCode} {s : State} (h : code.statusOnly = false) :
    (takeAbort info code s).streamOpen = false ∧ (takeAbort info code s).decSrcOpen = false ∧
      (takeAbort info code s).seq = .idle := by
  simp only [takeAbort, h]
  refine ⟨?_, ?_, rfl⟩
  · show (closeSource (closeStream s)).streamOpen = false
    unfold closeSource
    split <;> simp
  · show (closeSource (closeStream s)).decSrcOpen = false
    unfold closeSource
    split <;> simp_all

/-- How an operation ends (R7, R13, R216): it returned, or it raised and aborted, or a fault of the model stopped it. -/
theorem runOperation_cases (op : OpName) (src : Option Byte) (body : Op (Option Half)) (s : State) :
    (∃ r t, body s = .ok r t ∧ runOperation op src body s = .next (returnOk r t)) ∨
    (∃ c rs d t, body s = .error (.raise c rs d) t ∧
      runOperation op src body s = .next (takeAbort ⟨some op, src, rs, d⟩ c t)) ∨
    (∃ f t, body s = .error (.fault f) t ∧ runOperation op src body s = .fault f) := by
  unfold runOperation
  cases h : body s with
  | ok r t => exact .inl ⟨r, t, rfl, rfl⟩
  | error e t =>
    cases e with
    | raise c rs d => exact .inr (.inl ⟨c, rs, d, t, rfl, rfl⟩)
    | fault f => exact .inr (.inr ⟨f, t, rfl, rfl⟩)

/-! ## What waits (R63, R86) -/

/-- A waiting byte is refused exactly where the driver of the bus does not admit it. -/
theorem portRefusal_none_iff (s : State) :
    portRefusal s = none ↔ ∀ w ∈ s.input.head?, s.busDriver.admits w = true := by
  unfold portRefusal
  cases s.input with
  | nil => simp
  | cons w ws => cases h : s.busDriver.admits w <;> simp [h]

/-- With TFTCORE on the bus, a step of an instance that no construction replaces idles, takes a host request, or refuses
another agent's byte (R63). -/
theorem step_core_cases {s : State} (hn : s.newInstance = none) (hw : s.cfg.wf = true) (hd : s.busDriver = .core) :
    (s.input = [] ∧ step s = runWaiting s) ∨ (∃ b ws, s.input = .req b :: ws ∧ step s = runWaiting s) ∨
      step s = .refused .foreignBus := by
  cases hi : s.input with
  | nil => exact .inl ⟨rfl, by simp [step, hn, hw, portRefusal, hi]⟩
  | cons w ws =>
    cases w with
    | req b => exact .inr (.inl ⟨b, ws, rfl, by simp [step, hn, hw, portRefusal, hi, hd, BusDriver.admits]⟩)
    | cmd b => exact .inr (.inr (by simp [step, hn, hw, portRefusal, hi, hd, BusDriver.admits, BusDriver.refusal]))
    | data b => exact .inr (.inr (by simp [step, hn, hw, portRefusal, hi, hd, BusDriver.admits, BusDriver.refusal]))

/-- Every request byte that waits belongs to a request cut short (93 I15). -/
theorem afterRequest_reqBytes (bs : List Byte) (ws : List WireByte) :
    afterRequest (reqBytes bs ++ ws) = afterRequest ws := by
  induction bs with
  | nil => rfl
  | cons b bs ih => exact ih

/-- A request refused at its decoding changes nothing but the status (R88, 93 I15). -/
theorem illegalOperation_eq (op : Byte) (s : State) :
    illegalOperation op s =
      { s with stCode := .illegalOpError, stInfo := ⟨some (.opByte op), none, none, .none⟩, result := none } := rfl

end Sys2Proof.Machine
end

