-- ==== Sys2Proof/Laws/PerInstr.lean ====
section
/-! SUPPORT. Facts about every instruction as syntax, one lemma per constructor: how its encoding starts and which line
carries the rest (spec/30_encoding.md R71-R74, R85-R87). -/

namespace Sys2Proof.Laws.EncodeHead

/-- The first byte of an encoding: the op byte on the request port (R87), the command code in command mode (R74). -/
def headOf (c : Config) : Instr → WireByte
  | .init => .req 0x01
  | .setWindow _ _ _ _ => .req 0x02
  | .writePixels _ => .req 0x03
  | .endWrite => .req 0x04
  | .fill _ => .req 0x05
  | .convert _ _ _ => .req 0x06
  | .decodeBmp _ => .req 0x07
  | .swreset => .cmd c.cmdSwreset
  | .slpout => .cmd c.cmdSlpout
  | .caset _ _ => .cmd c.cmdCaset
  | .raset _ _ => .cmd c.cmdRaset
  | .ramwr _ => .cmd c.cmdRamwr
  | .colmod _ => .cmd c.cmdColmod
  | .madctl _ => .cmd c.cmdMadctl
  | .dispon => .cmd c.cmdDispon

/-- Whether a byte may follow such a first byte inside one instruction: request bytes follow an op byte, data bytes follow
a command code (R85: the label tells them apart, never the value). -/
def follows : WireByte → WireByte → Bool
  | .req _, .req _ => true
  | .cmd _, .data _ => true
  | _, _ => false

/-- The encoding starts with the instruction's own byte, and every later byte travels on the line that belongs to it. -/
def Statement (i : Instr) : Prop :=
  ∀ c : Config, ∃ ws, encode c i = headOf c i :: ws ∧ ∀ w ∈ ws, follows (headOf c i) w = true

theorem req_tail (b : Byte) (bs : List Byte) :
    ∃ ws, reqBytes (b :: bs) = .req b :: ws ∧ ∀ w ∈ ws, follows (.req b) w = true :=
  ⟨reqBytes bs, rfl, by
    intro w hw
    obtain ⟨x, -, rfl⟩ := List.mem_map.1 hw
    rfl⟩

theorem frame_tail (b : Byte) (bs : List Byte) :
    ∃ ws, frameBytes b bs = .cmd b :: ws ∧ ∀ w ∈ ws, follows (.cmd b) w = true :=
  ⟨bs.map .data, rfl, by
    intro w hw
    obtain ⟨x, -, rfl⟩ := List.mem_map.1 hw
    rfl⟩

theorem init : Statement .init := fun _ => req_tail _ _
theorem setWindow (x0 y0 x1 y1 : Half) : Statement (.setWindow x0 y0 x1 y1) := fun _ => req_tail _ _
theorem writePixels (bytes : List Byte) : Statement (.writePixels bytes) := fun _ => req_tail _ _
theorem endWrite : Statement .endWrite := fun _ => req_tail _ _
theorem fill (color : Half) : Statement (.fill color) := fun _ => req_tail _ _
theorem convert (r g b : Byte) : Statement (.convert r g b) := fun _ => req_tail _ _
theorem decodeBmp (h : Byte) : Statement (.decodeBmp h) := fun _ => req_tail _ _
theorem swreset : Statement .swreset := fun _ => frame_tail _ _
theorem slpout : Statement .slpout := fun _ => frame_tail _ _
theorem caset (x0 x1 : Half) : Statement (.caset x0 x1) := fun _ => frame_tail _ _
theorem raset (y0 y1 : Half) : Statement (.raset y0 y1) := fun _ => frame_tail _ _
theorem ramwr (stream : List Byte) : Statement (.ramwr stream) := fun _ => frame_tail _ _
theorem colmod (v : Byte) : Statement (.colmod v) := fun _ => frame_tail _ _
theorem madctl (v : Byte) : Statement (.madctl v) := fun _ => frame_tail _ _
theorem dispon : Statement .dispon := fun _ => frame_tail _ _

end Sys2Proof.Laws.EncodeHead
end

