-- ==== Sys2Proof/Tests/Slice0.lean ====
section
/-! SUPPORT. The model's own tests: words written out from spec/30_encoding.md and their decoding, one or two steps of each
instruction against spec/95_test_vectors.md, the WellFormed smoke test, and for every statement with hypotheses a concrete
state and operands that meet all of them. -/

namespace Sys2Proof.Tests

open Sys2Proof.Machine Sys2Proof.Safety

/-! ## Helpers -/

/-- A 2 by 2 panel (95_test_vectors.md part 3), with a fill chunk that does not divide the pixel. -/
def small : Config := { Config.default with panelW := 2, panelH := 2, fillChunk := 3 }

/-- The same with a reset line wired. -/
def wired : Config := { small with hasRst := true }

/-- A ready instance with no stream open, display on, 16-bit color set, answers `tx` waiting. -/
def readyState (c : Config) (tx : List TxAns) : State :=
  { State.resetWith c with
    drvState := .ready
    dc := .cmd
    trace := [.pinDc c.dcCmd]
    ctl := { Ctl.afterReset 0 with
      cmd := some c.cmdDispon, sleep := false, disp := true, colmod := c.colmodVal, colmodRecv := true }
    txIn := tx }

/-- A stream open on the window `xs, ys, xe, ye`, `wp` pixels written, `hi` waiting. -/
def streamState (c : Config) (xs ys xe ye : Half) (wp : Nat) (hi : Option Byte) (tx : List TxAns) : State :=
  { readyState c tx with
    busSel := true
    streamOpen := true
    dc := .data
    trace := [.pinDc c.dcCmd.opposite]
    ctl := { (readyState c tx).ctl with
      cmd := some c.cmdRamwr, xs := xs, xe := xe, ys := ys, ye := ye, wp := wp, hi := hi } }

/-- `n` transfers answered ok. -/
def oks (n : Nat) : List TxAns := List.replicate n .ok

def nextOf : Host.Outcome State Fault Refusal → Option State
  | .next t => some t
  | .fault _ => none
  | .refused _ => none

/-- What `f` reads of the state an instruction leaves. -/
def after {α : Type} (i : Instr) (s : State) (f : State → α) : Option α := (nextOf (exec i s)).map f

/-- The header of a bitmap `w` wide and `h` tall of `bpp` bits, with signature `b0 b1` (R80). -/
def header (b0 b1 w h bpp : Byte) : List Byte :=
  [b0, b1] ++ List.replicate 16 0 ++ [w, 0, 0, 0, h, 0, 0, 0] ++ [0, 0] ++ [bpp, 0] ++ List.replicate 24 0

/-- The rows of program P3, top first. -/
def rowsP3 : Nat → List Byte
  | 0 => [0x00, 0x00, 0xFF, 0x00, 0xFF, 0x00, 0, 0]
  | _ => [0xFF, 0x00, 0x00, 0xFF, 0xFF, 0xFF, 0, 0]

def headerP3 : List Byte := header 0x42 0x4D 2 2 24

/-- Program P3's source, `n` rows answered and `bad` after them. -/
def sourceState (s : State) (hdr : List Byte) (n : Nat) (bad : List SrcAns) (cancels : List Bool) : State :=
  { s with openIn := [true], readIn := sourceAnswers hdr rowsP3 n bad, cancelIn := cancels }

def withClaims (claims : List Bool) (s : State) : State := { s with claimIn := claims }

/-- A byte of GRAM, if one was written. -/
def cell (x y : Nat) (s : State) : Option Byte × Option Byte :=
  (memRead s.gram (gramAddr x y), memRead s.gram (gramAddr x y + 1))

/-! ## WellFormed (R86) -/

/-- `n` of WRITE_PIXELS travels in four bytes. -/
theorem wellFormed_long_write (n : Nat) (h : 4294967296 ≤ n) : wellFormed (.writePixels (List.replicate n 0)) = false := by
  simp only [wellFormed, List.length_replicate, decide_eq_false_iff_not]
  omega

theorem test_wellFormed_refuses_long_write : wellFormed (.writePixels (List.replicate 4294967296 0)) = false :=
  wellFormed_long_write 4294967296 (Nat.le_refl _)

theorem test_wellFormed_accepts_write : wellFormed (.writePixels [0x12, 0x34]) = true := by decide

/-! ## Decoding (95_test_vectors.md section 2.1; R74, R75, R85) -/

theorem test_decode_init : decode Config.default [.req 0x01] = .instr .init [] := by decide
theorem test_decode_setWindow :
    decode Config.default (reqBytes [0x02, 0x00, 0x00, 0x00, 0x00, 0x00, 0xEF, 0x01, 0x3F]) =
      .instr (.setWindow 0 0 239 319) [] := by decide
theorem test_decode_writePixels :
    decode Config.default (reqBytes [0x03, 0x00, 0x00, 0x00, 0x02, 0x12, 0x34]) = .instr (.writePixels [0x12, 0x34]) [] := by
  decide
theorem test_decode_writePixels_empty :
    decode Config.default (reqBytes [0x03, 0x00, 0x00, 0x00, 0x00]) = .instr (.writePixels []) [] := by decide
theorem test_decode_endWrite : decode Config.default [.req 0x04] = .instr .endWrite [] := by decide
theorem test_decode_fill : decode Config.default (reqBytes [0x05, 0xF8, 0x00]) = .instr (.fill 0xF800) [] := by decide
theorem test_decode_convert :
    decode Config.default (reqBytes [0x06, 0x12, 0x34, 0x56]) = .instr (.convert 0x12 0x34 0x56) [] := by decide
theorem test_decode_decodeBmp : decode Config.default (reqBytes [0x07, 0x00]) = .instr (.decodeBmp 0x00) [] := by decide
theorem test_decode_swreset : decode Config.default [.cmd 0x01] = .instr .swreset [] := by decide
theorem test_decode_slpout : decode Config.default [.cmd 0x11] = .instr .slpout [] := by decide
theorem test_decode_caset :
    decode Config.default [.cmd 0x2A, .data 0x01, .data 0x00, .data 0x01, .data 0x3F] = .instr (.caset 256 319) [] := by
  decide
theorem test_decode_raset :
    decode Config.default [.cmd 0x2B, .data 0x00, .data 0x05, .data 0x00, .data 0x05] = .instr (.raset 5 5) [] := by decide
theorem test_decode_ramwr :
    decode Config.default [.cmd 0x2C, .data 0x12, .data 0x34, .cmd 0x29] = .instr (.ramwr [0x12, 0x34]) [.cmd 0x29] := by
  decide
theorem test_decode_colmod : decode Config.default [.cmd 0x3A, .data 0x55] = .instr (.colmod 0x55) [] := by decide
theorem test_decode_madctl : decode Config.default [.cmd 0x36, .data 0x00] = .instr (.madctl 0x00) [] := by decide
theorem test_decode_dispon : decode Config.default [.cmd 0x29] = .instr .dispon [] := by decide
theorem test_decode_truncated : decode Config.default (reqBytes [0x02, 0x00, 0x00, 0x00]) = .truncated 0x02 [] := by decide
theorem test_decode_reserved :
    decode Config.default [.req 0x00] = .reservedOp 0x00 [] ∧ decode Config.default [.req 0xFF] = .reservedOp 0xFF [] := by
  decide
theorem test_tableWord_caset : decodeTableWord 8 0x2A = some (.caset 0 0) := by decide
theorem test_tableWord_fill : decodeTableWord 24 0x00F805 = some (.fill 0xF800) := by decide

/-! ## Meanings (95_test_vectors.md parts 2 and 3) -/

/-- P1: the bus view of INIT and the state it leaves. -/
theorem test_init : after .init { State.resetWith small with claimIn := [true], txIn := oks 7 }
    (fun t => (t.busView, t.drvState, t.ctl.sleep, t.ctl.disp)) =
      some ([itemC 0x01, .desel, itemC 0x11, .desel, itemC 0x3A, .desel, itemD 0x55, .desel, itemC 0x36, .desel, itemD 0x00,
        .desel, itemC 0x29, .desel], .ready, false, true) := by decide

/-- Section 2.4: `Tx(55)` fails. -/
theorem test_init_payload_fails :
    after .init { State.resetWith small with claimIn := [true], txIn := oks 3 ++ [.failLost] }
      (fun t => (t.stCode, t.stInfo.detail, t.drvState)) =
        some (.initError, .initStep 4 (some ⟨.data, none, 0⟩), .failed) := by decide

/-- Section 2.5: the last pixel's window, 240 by 320. -/
theorem test_setWindow : after (.setWindow 239 319 239 319) (readyState Config.default (oks 11))
    (fun t => (t.busView, t.streamOpen)) =
      some ([itemC 0x2A, .desel, itemD 0x00, itemD 0xEF, itemD 0x00, itemD 0xEF, .desel, itemC 0x2B, .desel, itemD 0x01,
        itemD 0x3F, itemD 0x01, itemD 0x3F, .desel, itemC 0x2C], true) := by decide

/-- Section 2.5: a window past the last column. -/
theorem test_setWindow_range : after (.setWindow 0 0 240 0) (readyState Config.default [])
    (fun t => (t.stCode, t.busView)) = some (.windowRangeError, []) := by decide

/-- R13, R216, 90_conflicts.md C2: the abort sequence of WindowRangeError releases a stream left open. -/
theorem test_setWindow_range_releases : after (.setWindow 0 0 2 0) (streamState small 0 0 1 1 1 none [])
    (fun t => (t.stCode, t.busView, t.busSel, t.streamOpen)) = some (.windowRangeError, [.desel], false, false) := by decide

/-- R121: with no stream to close, the release of a lost command frame leaves GRAM as it is. -/
theorem test_lost_command_keeps_gram :
    after (.setWindow 0 0 1 1)
      { streamState small 0 0 1 1 0 (some 9) [.failLost] with
        busSel := false, streamOpen := false, gram := [(0, 0x12), (1, 0x34)] }
      (fun t => (t.stCode, cell 0 0 t)) = some (.transferError, (some 0x12, some 0x34)) := by decide

/-- P2: the second call completes the pixel the first began. -/
theorem test_writePixels_splits : after (.writePixels [0x34, 0x56, 0x78]) (streamState small 1 0 1 1 0 (some 0x12) (oks 3))
    (fun t => (cell 1 0 t, cell 1 1 t, t.ctl.wp)) =
      some ((some 0x12, some 0x34), (some 0x56, some 0x78), 2) := by decide

/-- Section 2.2: APPEND with byte 1 failing. -/
theorem test_writePixels_fails :
    after (.writePixels [0xF8, 0x00]) (streamState small 0 0 1 1 0 none [.ok, .failLost])
      (fun t => (t.stInfo.detail, t.busView, t.streamOpen)) =
        some (.transfer ⟨.stream, none, 1⟩, [itemD 0xF8, .byte .data 0x00 false, .desel], false) := by decide

/-- R147: END_WRITE releases CS. -/
theorem test_endWrite : after .endWrite (streamState small 0 0 0 0 1 none [])
    (fun t => (t.busView, t.busSel)) = some ([.desel], false) := by decide

/-- R149: FILL on a 2 by 2 panel, with a chunk of 3 bytes. -/
theorem test_fill : after (.fill 0xF800) (readyState small (oks 19))
    (fun t => (t.busView.drop 15, cell 1 1 t)) =
      some ([itemD 0xF8, itemD 0x00, itemD 0xF8, itemD 0x00, itemD 0xF8, itemD 0x00, itemD 0xF8, itemD 0x00, .desel],
        (some 0xF8, some 0x00)) := by decide +kernel

/-- Section 2.6: stream byte 3 fails; with a chunk of 2 its index is 1. -/
theorem test_fill_fails :
    after (.fill 0xF800) (readyState { small with fillChunk := 2 } (oks 14 ++ [.failDelivered]))
      (fun t => (t.stInfo.detail, cell 0 0 t)) =
        some (.transfer ⟨.stream, none, 1⟩, (some 0xF8, some 0x00)) := by decide +kernel

/-- R170's example with its response, high byte first (R86), and the conventional order. -/
theorem test_convert : after (.convert 0x12 0x34 0x56) State.reset (fun t => (t.result, t.response.bytes)) =
    some (some 0x51A2, [0x51, 0xA2]) := by decide
theorem test_convert_conventional :
    after (.convert 200 100 50) (State.resetWith { small with swapRb := false }) (fun t => t.result) =
      some (some 0xCB26) := by decide

/-- P3: the picture. -/
theorem test_decodeBmp : after (.decodeBmp 0) (sourceState (readyState small (oks 19)) headerP3 2 [] [false])
    (fun t => (cell 0 0 t, cell 1 0 t, cell 0 1 t, cell 1 1 t)) =
      some ((some 0x00, some 0x1F), (some 0x07, some 0xE0), (some 0xF8, some 0x00), (some 0xFF, some 0xFF)) := by decide +kernel

/-- P3: the source is read from the top row of the image. -/
theorem test_decodeBmp_reads : after (.decodeBmp 0) (sourceState (readyState small (oks 19)) headerP3 2 [] [false])
    (fun t => (sourceEvents t.events).map fun
      | .srcRead off n _ => (off, n)
      | _ => (0, 0)) = some [(0, 0), (0, 54), (62, 8), (54, 8), (0, 0)] := by decide +kernel

/-- R182, R30: a short header is not written, and `HDR` keeps what it held. -/
theorem test_decodeBmp_short_header :
    after (.decodeBmp 0)
      { readyState small [] with openIn := [true], readIn := [.data (headerP3.take 53)], hdr := [(0, 0x77)] }
      (fun t => (t.stCode, t.stInfo.detail, memRead t.hdr 0)) =
        some (.formatError, .headerLength 53, some 0x77) := by decide +kernel

/-- Section 2.3, one line each. -/
theorem test_swreset : after .swreset (streamState small 0 0 1 1 3 (some 1) [])
    (fun t => (t.ctl.sleep, t.ctl.disp, t.ctl.wp, t.ctl.hi, t.gram.length)) = some (true, false, 0, none, 0) := by decide
theorem test_slpout : after .slpout (State.resetWith small) (fun t => (t.ctl.sleep, t.ctl.disp)) = some (false, false) := by
  decide
theorem test_dispon : after .dispon (State.resetWith small) (fun t => (t.ctl.sleep, t.ctl.disp)) = some (true, true) := by
  decide
theorem test_caset : after (.caset 256 319) (readyState Config.default []) (fun t => (t.ctl.xs, t.ctl.xe)) =
    some (256, 319) := by decide
theorem test_raset : after (.raset 5 5) (readyState Config.default []) (fun t => (t.ctl.ys, t.ctl.ye)) = some (5, 5) := by
  decide
theorem test_ramwr : after (.ramwr [0x12, 0x34, 0x56, 0x78]) (streamState small 1 0 1 1 7 (some 9) [])
    (fun t => (cell 1 0 t, cell 1 1 t, cell 0 0 t)) =
      some ((some 0x12, some 0x34), (some 0x56, some 0x78), (none, none)) := by decide
theorem test_colmod : after (.colmod 0x55) (State.resetWith small) (fun t => (t.ctl.colmod, t.ctl.colmodRecv)) =
    some (0x55, true) := by decide
theorem test_madctl : after (.madctl 0xA8) (State.resetWith small) (fun t => t.ctl.madctl) = some 0xA8 := by decide

/-! ## The step -/

/-- A reserved op byte is an operation of its own: it reports and the machine goes on (R88). -/
theorem test_step_reserved :
    (nextOf (step { State.reset with input := [.req 0x08, .req 0x04] })).map (fun t => (t.stCode, t.input)) =
      some (.illegalOpError, [.req 0x04]) := by decide

/-- A request cut short: code 10, no port event (93 I15). -/
theorem test_step_truncated :
    (nextOf (step { State.reset with input := reqBytes [0x03, 0x00, 0x00, 0x00, 0x02, 0x12] })).map
      (fun t => (t.stCode.number, t.trace, t.input)) = some (10, [], []) := by decide

/-- R63: with TFTCORE on the bus no other agent's byte is taken. -/
theorem test_step_foreign_byte : step { State.reset with input := [.data 0x12] } = .refused .foreignBus := rfl

/-- R240 and 93 I3: construction keeps the controller's registers and leaves no cell of GRAM with a specified value. -/
theorem test_block_reset :
    (nextOf (step { streamState small 0 0 1 1 3 none [] with gram := [(0, 0x12), (1, 0x34)], newInstance := some wired })).map
      (fun t => (t.drvState, t.busSel, t.cfg.hasRst, t.ctl.wp, t.gram.length)) = some (.uninitialized, false, true, 3, 0) := by
  decide

/-- A command row's word runs at the controller by itself (log 1). -/
theorem test_withFetchWord_caset :
    (nextOf (step (State.reset.withFetchWord 8 0x2A))).map (fun t => (t.ctl.xs, t.ctl.xe, t.input)) = some (0, 0, []) := by
  decide

/-- The host's first question: a table word runs as the first instruction after reset. -/
theorem test_withFetchWord :
    (nextOf (step (State.reset.withFetchWord 32 0x56341206))).map (fun t => (t.result, t.input)) =
      some (some 0x51A2, []) := by decide

/-! ## Witnesses: for every statement with hypotheses, a state and operands that meet all of them -/

theorem ready_rests : DrvState.ready ≠ .resetting ∧ DrvState.ready ≠ .initializing := by decide

/-- The empty stream of a state at rest, with `n` transfers answered ok. -/
theorem readyState_resting (n : Nat) : Resting (readyState small (oks n)) :=
  ⟨rfl, rfl, ready_rests, rfl, nofun, nofun, rfl, rfl, rfl, rfl, rfl, rfl⟩

theorem streamState_resting (n : Nat) : Resting (streamState small 0 0 1 1 0 none (oks n)) :=
  ⟨rfl, rfl, ready_rests, rfl, fun _ => rfl, fun _ => rfl, rfl, rfl, rfl, rfl, rfl, rfl⟩

theorem streamState_window (n : Nat) : windowInPanel (streamState small 0 0 1 1 0 none (oks n)) :=
  (by decide : (0 : Nat) ≤ 1 ∧ 1 < 2 ∧ 0 ≤ 1 ∧ 1 < 2)

theorem streamState_host (n : Nat) : HostState (streamState small 0 0 1 1 0 none (oks n)) :=
  ⟨streamState_resting n, rfl, nofun, fun _ => rfl, fun _ => streamState_window n⟩

theorem streamState_ready (wp : Nat) (hi : Option Byte) (tx : List TxAns) :
    StreamReady (streamState small 0 0 1 1 wp hi tx) :=
  ⟨rfl, rfl, rfl, rfl, rfl, (by decide : (0 : Nat) ≤ 1 ∧ 1 < 2 ∧ 0 ≤ 1 ∧ 1 < 2)⟩

theorem readyState_whole (tx : List TxAns) : WholeContext (readyState small tx) := by
  intro h
  rcases h.2 with h | h
  · exact absurd h (by decide : (some (0x29 : Byte)) ≠ some 0x2A)
  · exact absurd h (by decide : (some (0x29 : Byte)) ≠ some 0x2B)

theorem witness_DecodeInvertsEncode :
    Config.default.wf = true ∧ wellFormed (.ramwr [0x12]) = true ∧
      (∀ b ws, [WireByte.cmd 0x29] ≠ .data b :: ws) ∧ wellFormed (.setWindow 0 0 0xFFFF 0xFFFF) = true := by
  refine ⟨by decide, rfl, ?_, rfl⟩
  intro b ws h
  cases h

theorem witness_ReservedOpByte :
    (((0x00 : Byte) = 0x00 ∨ 0x08 ≤ (0x00 : Byte).toNat) ∧ ((0x08 : Byte) = 0x00 ∨ 0x08 ≤ (0x08 : Byte).toNat) ∧
      ((0xFF : Byte) = 0x00 ∨ 0x08 ≤ (0xFF : Byte).toNat)) ∧
    (∃ s : State, s.newInstance = none ∧ s.cfg.wf = true ∧ s.busDriver = .core ∧ s.input = .req 0x08 :: []) :=
  ⟨by decide, { State.reset with input := [.req 0x08] }, rfl, by decide, rfl, rfl⟩

theorem witness_TruncatedRequestRefused :
    ∃ s : State, s.newInstance = none ∧ s.cfg.wf = true ∧ s.busDriver = .core ∧ isHostOp (.fill 0xF800) = true ∧
      wellFormed (.fill 0xF800) = true ∧ 0 < 2 ∧ 2 < (encode s.cfg (.fill 0xF800)).length ∧
      s.input = (encode s.cfg (.fill 0xF800)).take 2 :=
  ⟨{ State.reset with input := [.req 0x05, .req 0xF8] }, rfl, by decide, rfl, rfl, rfl, by decide, by decide, by decide⟩

theorem witness_UnknownCommandRefused :
    (∃ s : State, s.newInstance = none ∧ s.cfg.wf = true ∧ s.busDriver = .bench ∧ s.input = .cmd 0x00 :: [] ∧
      (0x00 : Byte) ∉ s.cfg.commandCodes) ∧
    (∃ s : State, s.newInstance = none ∧ s.cfg.wf = true ∧ s.busDriver = .core ∧
      (s.input = .cmd 0x2A :: [] ∨ s.input = .data 0x2A :: [])) :=
  ⟨⟨{ State.reset with input := [.cmd 0x00], busDriver := .bench }, rfl, by decide, rfl, rfl, by decide⟩,
    ⟨{ State.reset with input := [.cmd 0x2A] }, rfl, by decide, rfl, .inl rfl⟩⟩

theorem witness_StepRunsDecoded :
    (∃ s : State, s.newInstance = none ∧ s.cfg.wf = true ∧ (∀ w ∈ s.input.head?, s.busDriver.admits w = true) ∧
      decode s.cfg s.input = .instr .endWrite [.req 0x01]) ∧
    (∃ s : State, s.newInstance = none ∧ s.cfg.wf = true ∧ (∀ w ∈ s.input.head?, s.busDriver.admits w = true) ∧
      decode s.cfg s.input = .instr .dispon []) :=
  ⟨⟨{ State.reset with input := [.req 0x04, .req 0x01] }, rfl, by decide, by decide, by decide⟩,
    ⟨{ State.reset with input := [.cmd 0x29], busDriver := .bench }, rfl, by decide, by decide, by decide⟩⟩

theorem witness_IdleStays : State.reset.newInstance = none ∧ State.reset.cfg.wf = true ∧ State.reset.input = [] := by decide

theorem witness_BlockResetValues :
    ∃ s : State, s.newInstance = some wired ∧ wired.wf = true ∧ s.drvState = .failed ∧ s.busSel = false :=
  ⟨{ State.reset with newInstance := some wired, drvState := .failed }, rfl, by decide, rfl, rfl⟩

theorem witness_IllFormedConfigRefused :
    (∃ (s : State) (c : Config), s.newInstance = some c ∧ c.wf = false) ∧
    (∃ s : State, s.newInstance = none ∧ s.cfg.wf = false) :=
  ⟨⟨{ State.reset with newInstance := some { small with headerSize := 29 } }, { small with headerSize := 29 }, rfl, by decide⟩,
    ⟨State.resetWith { small with fillChunk := 0 }, rfl, by decide⟩⟩

/-- WRITE_PIXELS of one pixel waiting on an open stream. -/
def writeWaiting : State :=
  { streamState small 0 0 1 1 0 none (oks 2) with input := reqBytes [0x03, 0x00, 0x00, 0x00, 0x02, 0x12, 0x34] }

theorem writeWaiting_resting : Resting writeWaiting :=
  ⟨rfl, rfl, ready_rests, rfl, fun _ => rfl, fun _ => rfl, rfl, rfl, rfl, rfl, rfl, rfl⟩

theorem writeWaiting_host : HostState writeWaiting :=
  ⟨writeWaiting_resting, rfl, by
      intro w hw
      obtain ⟨b, -, rfl⟩ := List.mem_map.1 hw
      exact ⟨b, rfl⟩,
    fun _ => rfl, fun _ => (by decide : (0 : Nat) ≤ 1 ∧ 1 < 2 ∧ 0 ≤ 1 ∧ 1 < 2)⟩

theorem witness_StepKeepsResting :
    ∃ t, Resting writeWaiting ∧ step writeWaiting = .next t ∧ t.ctl.wp = 1 := ⟨_, writeWaiting_resting, rfl, by decide⟩

theorem witness_StepKeepsHostState :
    ∃ t, HostState writeWaiting ∧ step writeWaiting = .next t ∧ t.ctl.wp = 1 := ⟨_, writeWaiting_host, rfl, by decide⟩

theorem witness_OnlyEightCommandCodes :
    ∃ t, Resting writeWaiting ∧ CommandsClosed writeWaiting ∧ step writeWaiting = .next t ∧ t.ctl.wp = 1 :=
  ⟨_, writeWaiting_resting, nofun, rfl, by decide⟩

theorem witness_HostOperationsEnd :
    HostState (streamState small 0 0 1 1 0 none (oks 0)) ∧ small.wf = true ∧ isHostOp (.fill 0) = true :=
  ⟨streamState_host 0, by decide, rfl⟩

/-- INIT fetched and run: the rules on what a step may write have a step that writes. -/
def initWaiting : State := { State.resetWith wired with claimIn := [true], txIn := oks 7, input := [.req 0x01] }

theorem witness_ConfigurationReadOnly :
    ∃ t, initWaiting.newInstance = none ∧ step initWaiting = .next t := ⟨_, rfl, rfl⟩

theorem witness_DriverStateWrittenByInitOnly :
    ∃ t, initWaiting.newInstance = none ∧ step initWaiting = .next t ∧
      (t.drvState ≠ initWaiting.drvState ∨ t.rstLvl ≠ initWaiting.rstLvl) :=
  ⟨_, rfl, rfl, .inl (by decide)⟩

theorem witness_DecoderWrittenByDecodeOnly :
    ∃ t, ({ sourceState (readyState small []) (header 0x42 0x4D 1 1 16) 0 [] [] with
        input := [.req 0x07, .req 0x00] }).decSrcOpen = false ∧
      step { sourceState (readyState small []) (header 0x42 0x4D 1 1 16) 0 [] [] with input := [.req 0x07, .req 0x00] } =
        .next t ∧ t.decBpp ≠ 0 :=
  ⟨_, rfl, rfl, by decide⟩

theorem witness_TraceOnlyGrows : ∃ t, initWaiting.newInstance = none ∧ step initWaiting = .next t := ⟨_, rfl, rfl⟩

theorem witness_ConfigParseErrorNeverRaised :
    ∃ t, initWaiting.stCode ≠ .configParseError ∧ step initWaiting = .next t := ⟨_, by decide, rfl⟩

theorem witness_AbortReleases :
    ∃ t, Resting (streamState small 0 0 1 1 0 none (oks 0 ++ [.failLost])) ∧ isHostOp (.writePixels [1]) = true ∧
      exec (.writePixels [1]) (streamState small 0 0 1 1 0 none (oks 0 ++ [.failLost])) = .next t ∧ t.stCode ≠ .ok ∧
      t.stCode.statusOnly = false :=
  ⟨_, ⟨rfl, rfl, ready_rests, rfl, fun _ => rfl, fun _ => rfl, rfl, rfl, rfl, rfl, rfl, rfl⟩, rfl, rfl,
    by decide, by decide⟩

theorem witness_ErrorClasses_portError :
    ∃ t, exec (.writePixels [1]) (streamState small 0 0 1 1 0 none [.failLost]) = .next t ∧ t.stCode = .transferError :=
  ⟨_, rfl, by decide⟩

theorem witness_ErrorClasses_initError :
    ∃ t, exec .init { State.resetWith small with claimIn := [false] } = .next t ∧ t.stCode = .initError :=
  ⟨_, rfl, by decide⟩

theorem witness_ErrorClasses_usage :
    ∃ t, exec .endWrite (State.resetWith small) = .next t ∧ t.stCode.statusOnly = true := ⟨_, rfl, by decide⟩

theorem witness_ErrorClasses_windowRange :
    ∃ t, exec (.setWindow 0 0 2 0) (streamState small 0 0 1 1 0 none []) = .next t ∧ t.stCode = .windowRangeError ∧
      (streamState small 0 0 1 1 0 none []).decSrcOpen = false ∧ NoHalfPixel (streamState small 0 0 1 1 0 none []) :=
  ⟨_, rfl, by decide, rfl, fun _ => rfl⟩

theorem witness_IllegalState_pixel :
    pixelOpName (.decodeBmp 3) = some .decodeBmp ∧ (State.resetWith small).drvState ≠ .ready := by decide

theorem witness_IllegalState_init :
    ∃ s : State, s.drvState ≠ .uninitialized ∧ s.drvState ≠ .ready :=
  ⟨{ State.reset with drvState := .failed }, by decide, by decide⟩

theorem witness_IllegalState_noStream :
    (readyState small []).drvState = .ready ∧ (readyState small []).streamOpen = false := by decide

theorem witness_CloseStreamLaws :
    (streamState small 0 0 1 1 0 none []).streamOpen = true ∧ (readyState small []).streamOpen = false := by decide

theorem witness_ConvertResult :
    State.reset.seq = .idle ∧ (0x51A2 : Half) =
      (((if State.reset.cfg.swapRb then (0x56 : Byte) else 0x12) >>> 3).setWidth 16 <<< 11) |||
        (((0x34 : Byte) >>> 2).setWidth 16 <<< 5) |||
        ((if State.reset.cfg.swapRb then (0x12 : Byte) else 0x56) >>> 3).setWidth 16 := by decide

/-- The monotony clause of ConvertLaws. -/
theorem witness_ConvertLaws :
    (7 : Byte).toNat ≤ (8 : Byte).toNat ∧ (3 : Byte).toNat ≤ (4 : Byte).toNat ∧ (255 : Byte).toNat ≤ (255 : Byte).toNat := by
  decide

theorem witness_InitCompletes :
    ∃ s : State, (s.drvState = .uninitialized ∨ s.drvState = .ready) ∧ s.cfg.wf = true ∧ s.busSel = s.streamOpen ∧
      s.claimIn = true :: [] ∧ TransfersOk s 7 [.failLost] ∧ s.streamOpen = true :=
  ⟨withClaims [true] (streamState wired 0 0 1 1 0 none (oks 7 ++ [TxAns.failLost])), .inr rfl, by decide, rfl, rfl, rfl,
    rfl⟩

theorem witness_InitClaimFailure :
    ∃ s : State, (s.drvState = .uninitialized ∨ s.drvState = .ready) ∧ s.busSel = s.streamOpen ∧ s.decSrcOpen = false ∧
      s.claimIn = false :: [] :=
  ⟨{ State.resetWith small with claimIn := [false] }, .inl rfl, rfl, rfl, rfl⟩

/-- The first and the last of the seven transfers. -/
theorem witness_InitTransferFailure :
    ∃ s t : State, (s.drvState = .uninitialized ∨ s.drvState = .ready) ∧ s.cfg.wf = true ∧ s.busSel = s.streamOpen ∧
      s.decSrcOpen = false ∧ s.claimIn = true :: [] ∧ 0 < (initTransfers s.cfg).length ∧ TransferFails s 0 .failLost [] ∧
      (t.drvState = .uninitialized ∨ t.drvState = .ready) ∧ t.cfg.wf = true ∧ t.busSel = t.streamOpen ∧
      t.decSrcOpen = false ∧ t.claimIn = true :: [] ∧ 6 < (initTransfers t.cfg).length ∧
      TransferFails t 6 .failDelivered [] :=
  ⟨{ State.resetWith small with claimIn := [true], txIn := [.failLost] },
    { State.resetWith small with claimIn := [true], txIn := oks 6 ++ [.failDelivered] },
    .inl rfl, by decide, rfl, rfl, rfl, by decide, ⟨rfl, by decide⟩, .inl rfl, by decide, rfl, rfl, rfl, by decide,
    ⟨rfl, by decide⟩⟩

/-- The largest window of the panel and a stream left open. -/
theorem witness_SetWindowCompletes :
    ∃ s : State, s.drvState = .ready ∧ s.cfg.wf = true ∧ windowInRange s.cfg 0 0 1 1 = true ∧ s.busSel = s.streamOpen ∧
      TransfersOk s 11 [] ∧ NoHalfPixel s :=
  ⟨streamState small 0 0 1 1 0 none (oks 11), rfl, by decide, by decide, rfl, rfl, fun _ => rfl⟩

/-- One past the last column, one past the last row, and bounds in the wrong order. -/
theorem witness_SetWindowRangeError :
    (streamState small 0 0 1 1 0 none []).drvState = .ready ∧ (streamState small 0 0 1 1 0 none []).decSrcOpen = false ∧
    (streamState small 0 0 1 1 0 none []).ctl.hi = none ∧
    ¬ ((0 : Half).toNat ≤ (2 : Half).toNat ∧ (2 : Half).toNat < small.panelW ∧ (0 : Half).toNat ≤ (0 : Half).toNat ∧
        (0 : Half).toNat < small.panelH) ∧
    ¬ ((0 : Half).toNat ≤ (0 : Half).toNat ∧ (0 : Half).toNat < small.panelW ∧ (0 : Half).toNat ≤ (2 : Half).toNat ∧
        (2 : Half).toNat < small.panelH) ∧
    ¬ ((1 : Half).toNat ≤ (0 : Half).toNat ∧ (0 : Half).toNat < small.panelW ∧ (0 : Half).toNat ≤ (0 : Half).toNat ∧
        (0 : Half).toNat < small.panelH) := by decide

/-- The first and the last of the eleven transfers. -/
theorem witness_SetWindowTransferFailure :
    ∃ s t : State, s.drvState = .ready ∧ s.cfg.wf = true ∧ windowInRange s.cfg 0 0 1 1 = true ∧ s.busSel = s.streamOpen ∧
      s.decSrcOpen = false ∧ 0 < (windowTransfers s.cfg).length ∧ TransferFails s 0 .failLost [.ok] ∧
      t.drvState = .ready ∧ t.cfg.wf = true ∧ windowInRange t.cfg 0 0 1 1 = true ∧ t.busSel = t.streamOpen ∧
      t.decSrcOpen = false ∧ 10 < (windowTransfers t.cfg).length ∧ TransferFails t 10 .failDelivered [.ok] :=
  ⟨readyState small [.failLost, .ok], readyState small (oks 10 ++ [.failDelivered, .ok]), rfl, by decide, by decide, rfl, rfl,
    by decide, ⟨rfl, by decide⟩, rfl, by decide, by decide, rfl, rfl, by decide, ⟨rfl, by decide⟩⟩

/-- No stream open, and one open on a half pixel. -/
theorem witness_WindowIdempotent :
    ∃ s t : State, s.drvState = .ready ∧ s.cfg.wf = true ∧ windowInRange s.cfg 1 0 1 1 = true ∧ s.busSel = s.streamOpen ∧
      TransfersOk s 22 [] ∧ NoHalfPixel s ∧ t.drvState = .ready ∧ t.cfg.wf = true ∧
      windowInRange t.cfg 1 0 1 1 = true ∧ t.busSel = t.streamOpen ∧ TransfersOk t 22 [] ∧ ¬ NoHalfPixel t :=
  ⟨readyState small (oks 22), streamState small 0 0 1 1 1 (some 9) (oks 22), rfl, by decide, by decide, rfl, rfl,
    by (intro h; cases h), rfl, by decide, by decide, rfl, rfl, fun h => absurd (h rfl) (by decide)⟩

/-- No byte at all, and more bytes than the window holds. -/
theorem witness_WritePixelsCompletes :
    ∃ s t : State, StreamReady s ∧ s.cfg.wf = true ∧ TransfersOk s ([] : List Byte).length [] ∧
      StreamReady t ∧ t.cfg.wf = true ∧ TransfersOk t (List.replicate 10 (0x2A : Byte)).length [] :=
  ⟨streamState small 0 0 1 1 0 none [], streamState small 0 0 1 1 0 none (oks 10), streamState_ready _ _ _, by decide, rfl,
    streamState_ready _ _ _, by decide, rfl⟩

/-- A half pixel waiting and the window filled to its last cell. -/
theorem witness_WritePixelsPlacesPixels :
    ∃ s : State, StreamReady s ∧ s.cfg.wf = true ∧ sixteenBit s = true ∧
      TransfersOk s ([0x34, 0x56, 0x78] : List Byte).length [] ∧
      s.ctl.wp + (s.ctl.hi.toList ++ ([0x34, 0x56, 0x78] : List Byte)).length / 2 ≤ windowCount s.ctl :=
  ⟨streamState small 0 0 1 1 2 (some 0x12) (oks 3), streamState_ready _ _ _, by decide, by decide, rfl, by decide⟩

/-- The first and the last byte of a call. -/
theorem witness_WritePixelsTransferFailure :
    ∃ s t : State, StreamReady s ∧ s.cfg.wf = true ∧ 0 < ([1, 2] : List Byte).length ∧ TransferFails s 0 .failLost [] ∧
      StreamReady t ∧ t.cfg.wf = true ∧ 1 < ([1, 2] : List Byte).length ∧ TransferFails t 1 .failDelivered [] :=
  ⟨streamState small 0 0 1 1 0 none [.failLost], streamState small 0 0 1 1 0 none [.ok, .failDelivered],
    streamState_ready _ _ _, by decide, by decide, ⟨rfl, by decide⟩, streamState_ready _ _ _, by decide, by decide,
    ⟨rfl, by decide⟩⟩

theorem witness_WritePixelsChunks :
    ∃ t u, exec (.writePixels [0x12]) (streamState small 0 0 1 1 0 none (oks 2)) = .next t ∧ t.stCode = .ok ∧
      exec (.writePixels [0x34]) t = .next u ∧ u.stCode = .ok :=
  ⟨_, _, rfl, by decide, rfl, by decide⟩

/-- Both forms: a stream open on a half pixel in the window's last cell, and no stream. -/
theorem witness_EndWriteCompletes :
    (streamState small 0 0 1 1 3 (some 9) []).drvState = .ready ∧
    streamDefined (streamState small 0 0 1 1 3 (some 9) []) = true ∧
    (streamState small 0 0 1 1 3 (some 9) []).ctl.wp < windowCount (streamState small 0 0 1 1 3 (some 9) []).ctl ∧
    (readyState small []).drvState = .ready := by decide

theorem witness_WindowCompleteness :
    ∃ s : State, s.drvState = .ready ∧ s.cfg.wf = true ∧ windowInRange s.cfg 1 0 1 1 = true ∧ s.busSel = s.streamOpen ∧
      NoHalfPixel s ∧ sixteenBit s = true ∧
      ([[0x12], [], [0x34, 0x56, 0x78]] : List (List Byte)).flatten.length =
        ((1 : Half).toNat - (1 : Half).toNat + 1) * ((1 : Half).toNat - (0 : Half).toNat + 1) * 2 ∧
      TransfersOk s (11 + ([[0x12], [], [0x34, 0x56, 0x78]] : List (List Byte)).flatten.length) [] :=
  ⟨readyState small (oks 15), rfl, by decide, by decide, rfl, by (intro h; cases h), by decide, by decide, rfl⟩

theorem witness_DrawPixelSetsOneCell :
    ∃ s : State, s.drvState = .ready ∧ s.cfg.wf = true ∧ (1 : Half).toNat < s.cfg.panelW ∧ (1 : Half).toNat < s.cfg.panelH ∧
      s.busSel = s.streamOpen ∧ NoHalfPixel s ∧ sixteenBit s = true ∧ TransfersOk s 13 [] :=
  ⟨readyState small (oks 13), rfl, by decide, by decide, by decide, rfl, by (intro h; cases h), by decide, rfl⟩

/-- FILL on a panel of four pixels: 8 stream bytes. -/
theorem witness_FillCompletes :
    ∃ s : State, s.drvState = .ready ∧ s.cfg.wf = true ∧ s.busSel = s.streamOpen ∧ sixteenBit s = true ∧
      TransfersOk s (11 + fillTotal s.cfg) [] :=
  ⟨readyState small (oks 19), rfl, by decide, rfl, by decide, rfl⟩

theorem witness_FillPaintsPanel :
    ∃ s : State, s.drvState = .ready ∧ s.cfg.wf = true ∧ s.busSel = s.streamOpen ∧ sixteenBit s = true ∧
      TransfersOk s (11 + fillTotal s.cfg) [] := witness_FillCompletes

/-- The last stream byte of the fill, and the first and the last transfer of its window body. -/
theorem witness_FillTransferFailure :
    (∃ s : State, s.drvState = .ready ∧ s.cfg.wf = true ∧ s.busSel = s.streamOpen ∧ 7 < fillTotal s.cfg ∧
      TransferFails s (11 + 7) .failDelivered [] ∧ NoHalfPixel s ∧ sixteenBit s = true) ∧
    (∃ s t : State, s.drvState = .ready ∧ s.cfg.wf = true ∧ s.busSel = s.streamOpen ∧ s.decSrcOpen = false ∧
      0 < (windowTransfers s.cfg).length ∧ TransferFails s 0 .failLost [.ok] ∧ s.ctl.hi = none ∧
      t.drvState = .ready ∧ t.cfg.wf = true ∧ t.busSel = t.streamOpen ∧ t.decSrcOpen = false ∧
      10 < (windowTransfers t.cfg).length ∧ TransferFails t 10 .failDelivered [.ok] ∧ t.ctl.hi = none) :=
  ⟨⟨readyState small (oks 18 ++ [.failDelivered]), rfl, by decide, rfl, by decide, ⟨rfl, by decide⟩, nofun, by decide⟩,
    ⟨readyState small [.failLost, .ok], readyState small (oks 10 ++ [.failDelivered, .ok]), rfl, by decide, rfl, rfl, by decide,
      ⟨rfl, by decide⟩, rfl, rfl, by decide, rfl, rfl, by decide, ⟨rfl, by decide⟩, rfl⟩⟩

theorem witness_DecodeSourceMissing :
    ∃ s : State, s.drvState = .ready ∧ s.decSrcOpen = false ∧ s.busSel = s.streamOpen ∧ s.openIn = false :: [] ∧
      NoHalfPixel s :=
  ⟨{ readyState small [] with openIn := [false] }, rfl, rfl, rfl, rfl, nofun⟩

/-- Every verdict, at the boundary of its test: no answer, 53 bytes, the signature reversed, 16 bits, width 0. -/
theorem witness_DecodeHeaderRejected :
    (∃ (s : State) (ans : SrcAns), s.drvState = .ready ∧ s.cfg.wf = true ∧ s.busSel = s.streamOpen ∧ s.openIn = true :: [] ∧
      s.readIn = ans :: [] ∧ headerVerdict s.cfg ans = some (.formatError, some .zeroSize, .size 0 2) ∧ NoHalfPixel s) ∧
    headerVerdict small .fail = some (.sourceReadError, none, .sourceRead none 0 54) ∧
    headerVerdict small (.data (headerP3.take 53)) = some (.formatError, some .shortHeader, .headerLength 53) ∧
    headerVerdict small (.data (header 0x4D 0x42 2 2 16)) =
      some (.formatError, some .badSignature, .signature 0x4D 0x42) ∧
    headerVerdict small (.data (header 0x42 0x4D 0 0 16)) = some (.unsupportedFormatError, some .bitDepth, .depth 16) :=
  ⟨⟨{ readyState small [] with openIn := [true], readIn := [.data (header 0x42 0x4D 0 2 24)] },
      .data (header 0x42 0x4D 0 2 24), rfl, by decide, rfl, rfl, rfl, by decide, nofun⟩,
    by decide, by decide, by decide, by decide⟩

theorem headerP3_accepted : headerAccepted small headerP3 := by
  unfold headerAccepted
  exact ⟨by decide, by decide, by decide, by decide, by decide, by decide⟩

theorem rowsP3_answered (n : Nat) (h : n ≤ 2) : RowsAnswered small headerP3 rowsP3 n := by
  refine ⟨h, fun r _ => ?_⟩
  match r with
  | 0 => decide
  | _ + 1 => exact (by decide : imageRowSize headerP3 ≤ 8)

theorem witness_DecodeCompletes :
    ∃ s : State, s.drvState = .ready ∧ s.cfg.wf = true ∧ s.busSel = s.streamOpen ∧ s.openIn = true :: [] ∧
      headerAccepted s.cfg headerP3 ∧ RowsAnswered s.cfg headerP3 rowsP3 (imageHeight s.cfg headerP3) ∧
      s.readIn = sourceAnswers headerP3 rowsP3 (imageHeight s.cfg headerP3) [] ∧
      s.cancelIn = List.replicate (imageHeight s.cfg headerP3 - 1) false ++ [true] ∧
      TransfersOk s (11 + 2 * imageWidth s.cfg headerP3 * imageHeight s.cfg headerP3) [] ∧ NoHalfPixel s ∧
      sixteenBit s = true :=
  ⟨sourceState (readyState small (oks 19)) headerP3 2 [] [false, true], rfl, by decide, rfl, rfl, headerP3_accepted,
    rowsP3_answered 2 (by decide), rfl, rfl, rfl, by (intro h; cases h), by decide⟩

theorem witness_DecodeSinglePass :
    ∃ s : State, s.drvState = .ready ∧ s.cfg.wf = true ∧ s.busSel = s.streamOpen ∧ s.openIn = true :: [] ∧
      headerAccepted s.cfg headerP3 ∧ RowsAnswered s.cfg headerP3 rowsP3 (imageHeight s.cfg headerP3) ∧
      s.readIn = sourceAnswers headerP3 rowsP3 (imageHeight s.cfg headerP3) [] ∧
      s.cancelIn = List.replicate (imageHeight s.cfg headerP3 - 1) false ++ [true] ∧
      TransfersOk s (11 + 2 * imageWidth s.cfg headerP3 * imageHeight s.cfg headerP3) [] ∧ NoHalfPixel s ∧
      sixteenBit s = true := witness_DecodeCompletes

theorem witness_DecodeDrawsImage :
    ∃ s : State, s.drvState = .ready ∧ s.cfg.wf = true ∧ s.busSel = s.streamOpen ∧ s.openIn = true :: [] ∧
      headerAccepted s.cfg headerP3 ∧ RowsAnswered s.cfg headerP3 rowsP3 (imageHeight s.cfg headerP3) ∧
      s.readIn = sourceAnswers headerP3 rowsP3 (imageHeight s.cfg headerP3) [] ∧
      s.cancelIn = List.replicate (imageHeight s.cfg headerP3 - 1) false ++ [true] ∧
      TransfersOk s (11 + 2 * imageWidth s.cfg headerP3 * imageHeight s.cfg headerP3) [] ∧ NoHalfPixel s ∧
      sixteenBit s = true := witness_DecodeCompletes

/-- Cancelled after the row before the last. -/
theorem witness_DecodeCancelled :
    ∃ s : State, s.drvState = .ready ∧ s.cfg.wf = true ∧ s.busSel = s.streamOpen ∧ s.openIn = true :: [] ∧
      headerAccepted s.cfg headerP3 ∧ 0 + 1 < imageHeight s.cfg headerP3 ∧ RowsAnswered s.cfg headerP3 rowsP3 (0 + 1) ∧
      s.readIn = sourceAnswers headerP3 rowsP3 (0 + 1) [] ∧ s.cancelIn = List.replicate 0 false ++ true :: [] ∧
      TransfersOk s (11 + 2 * imageWidth s.cfg headerP3 * (0 + 1)) [] ∧ NoHalfPixel s ∧ sixteenBit s = true :=
  ⟨sourceState (readyState small (oks 15)) headerP3 1 [] [true], rfl, by decide, rfl, rfl, headerP3_accepted, by decide,
    rowsP3_answered 1 (by decide), rfl, rfl, rfl, nofun, by decide⟩

/-- The last row, one byte short, and no answer for the first. -/
theorem witness_DecodeRowReadError :
    (∃ s : State, s.drvState = .ready ∧ s.cfg.wf = true ∧ s.busSel = s.streamOpen ∧ s.openIn = true :: [] ∧
      headerAccepted s.cfg headerP3 ∧ 1 < imageHeight s.cfg headerP3 ∧ RowsAnswered s.cfg headerP3 rowsP3 1 ∧
      (∀ bs, SrcAns.data [1, 2, 3, 4, 5, 6, 7] = .data bs → bs.length < imageRowSize headerP3) ∧
      s.readIn = sourceAnswers headerP3 rowsP3 1 (.data [1, 2, 3, 4, 5, 6, 7] :: []) ∧
      s.cancelIn = List.replicate 1 false ++ [] ∧ TransfersOk s (11 + 2 * imageWidth s.cfg headerP3 * 1) [] ∧
      NoHalfPixel s ∧ sixteenBit s = true) ∧
    (∃ s : State, s.drvState = .ready ∧ s.cfg.wf = true ∧ s.busSel = s.streamOpen ∧ s.openIn = true :: [] ∧
      headerAccepted s.cfg headerP3 ∧ 0 < imageHeight s.cfg headerP3 ∧ RowsAnswered s.cfg headerP3 rowsP3 0 ∧
      (∀ bs, SrcAns.fail = .data bs → bs.length < imageRowSize headerP3) ∧
      s.readIn = sourceAnswers headerP3 rowsP3 0 (.fail :: []) ∧ s.cancelIn = List.replicate 0 false ++ [] ∧
      TransfersOk s (11 + 2 * imageWidth s.cfg headerP3 * 0) [] ∧ NoHalfPixel s) :=
  ⟨⟨sourceState (readyState small (oks 15)) headerP3 1 [.data [1, 2, 3, 4, 5, 6, 7]] [false], rfl, by decide, rfl, rfl,
      headerP3_accepted, by decide, rowsP3_answered 1 (by decide), by (intro bs h; cases h; decide), rfl, rfl, rfl, nofun,
      by decide⟩,
    ⟨sourceState (readyState small (oks 11)) headerP3 0 [.fail] [], rfl, by decide, rfl, rfl, headerP3_accepted, by decide,
      rowsP3_answered 0 (by decide), nofun, rfl, rfl, rfl, nofun⟩⟩

/-- The last byte of the last row, and the first and the last transfer of the window body. -/
theorem witness_DecodeRowTransferFailure :
    (∃ s : State, s.drvState = .ready ∧ s.cfg.wf = true ∧ s.busSel = s.streamOpen ∧ s.openIn = true :: [] ∧
      headerAccepted s.cfg headerP3 ∧ 1 < imageHeight s.cfg headerP3 ∧ 3 < 2 * imageWidth s.cfg headerP3 ∧
      RowsAnswered s.cfg headerP3 rowsP3 (1 + 1) ∧ s.readIn = sourceAnswers headerP3 rowsP3 (1 + 1) [] ∧
      s.cancelIn = List.replicate 1 false ++ [] ∧
      TransferFails s (11 + 2 * imageWidth s.cfg headerP3 * 1 + 3) .failLost [] ∧ NoHalfPixel s ∧ sixteenBit s = true) ∧
    (∃ s t : State, s.drvState = .ready ∧ s.cfg.wf = true ∧ s.busSel = s.streamOpen ∧ s.openIn = true :: [] ∧
      headerAccepted s.cfg headerP3 ∧ s.readIn = .data headerP3 :: [] ∧ 0 < (windowTransfers s.cfg).length ∧
      TransferFails s 0 .failLost [.ok] ∧ s.ctl.hi = none ∧
      t.drvState = .ready ∧ t.cfg.wf = true ∧ t.busSel = t.streamOpen ∧ t.openIn = true :: [] ∧
      headerAccepted t.cfg headerP3 ∧ t.readIn = .data headerP3 :: [] ∧ 10 < (windowTransfers t.cfg).length ∧
      TransferFails t 10 .failDelivered [.ok] ∧ t.ctl.hi = none) :=
  ⟨⟨sourceState (readyState small (oks 18 ++ [.failLost])) headerP3 2 [] [false], rfl, by decide, rfl, rfl,
      headerP3_accepted, by decide, by decide, rowsP3_answered 2 (by decide), rfl, rfl, ⟨rfl, by decide⟩, nofun, by decide⟩,
    ⟨sourceState (readyState small [.failLost, .ok]) headerP3 0 [] [],
      sourceState (readyState small (oks 10 ++ [.failDelivered, .ok])) headerP3 0 [] [], rfl, by decide, rfl, rfl,
      headerP3_accepted, rfl, by decide, ⟨rfl, by decide⟩, rfl, rfl, by decide, rfl, rfl, headerP3_accepted, rfl, by decide,
      ⟨rfl, by decide⟩, rfl⟩⟩

theorem witness_SlpoutDisponComplete : (readyState small []).cfg.wf = true ∧ WholeContext (readyState small []) :=
  ⟨by decide, readyState_whole []⟩

theorem witness_ColmodMadctlComplete : (readyState small []).cfg.wf = true ∧ WholeContext (readyState small []) :=
  ⟨by decide, readyState_whole []⟩

theorem witness_WindowCommandsComplete : (readyState small []).cfg.wf = true ∧ WholeContext (readyState small []) :=
  ⟨by decide, readyState_whole []⟩

theorem streamState_whole (xs ys xe ye : Half) (wp : Nat) (hi : Option Byte) (tx : List TxAns) :
    WholeContext (streamState small xs ys xe ye wp hi tx) := by
  intro h
  rcases h.2 with h | h
  · exact absurd h (by decide : (some (0x2C : Byte)) ≠ some 0x2A)
  · exact absurd h (by decide : (some (0x2C : Byte)) ≠ some 0x2B)

/-- A window of the panel, and 16-bit color not set. -/
theorem witness_RamwrCompletes :
    ∃ s t : State, s.cfg.wf = true ∧ (windowInPanel s ∨ streamDefined s = false) ∧ WholeContext s ∧
      t.cfg.wf = true ∧ (windowInPanel t ∨ streamDefined t = false) ∧ WholeContext t ∧ windowFormed t.ctl = false :=
  ⟨streamState small 0 0 1 1 0 none (oks 0), streamState small 1 0 0 1 0 none (oks 0), by decide,
    .inl (streamState_window 0), streamState_whole _ _ _ _ _ _ _, by decide, .inr (by decide),
    streamState_whole _ _ _ _ _ _ _, by decide⟩

/-- One past the last column, one past the last row. -/
theorem witness_RamwrOutsidePanelFaults :
    ∃ s t : State, s.cfg.wf = true ∧ WholeContext s ∧ streamDefined s = true ∧
      (s.cfg.panelW ≤ s.ctl.xs.toNat ∨ s.cfg.panelH ≤ s.ctl.ys.toNat) ∧ t.cfg.wf = true ∧ WholeContext t ∧
      streamDefined t = true ∧ (t.cfg.panelW ≤ t.ctl.xs.toNat ∨ t.cfg.panelH ≤ t.ctl.ys.toNat) :=
  ⟨streamState small 2 0 2 1 0 none (oks 0), streamState small 0 2 0 2 0 none (oks 0), by decide,
    streamState_whole _ _ _ _ _ _ _, by decide, by decide, by decide, streamState_whole _ _ _ _ _ _ _, by decide, by decide⟩

/-- A stream of exactly the window's bytes. -/
theorem witness_RamwrFillsWindow :
    ∃ s : State, s.cfg.wf = true ∧ windowInPanel s ∧ WholeContext s ∧ sixteenBit s = true ∧
      (List.replicate 8 (0x11 : Byte)).length / 2 ≤ windowCount s.ctl :=
  ⟨streamState small 0 0 1 1 0 none (oks 0), by decide, streamState_window 0, streamState_whole _ _ _ _ _ _ _, by decide, by decide⟩

end Sys2Proof.Tests
end

section
/-! PROOFS. How a part of an operation ends: a rule per operation for "no fault of the model, and this of the state it
returns in". The rules compute through a `do` block with `simp`. -/

namespace Sys2Proof.Proofs

open Sys2Proof.Machine Sys2Proof.Safety

/-! ## Ending without a fault -/

/-- `x`, run at `s`, never faults, and where it returns `a` in `t`, `Q a t` holds. What it leaves where it raises is the abort
sequence's to deal with (R216). -/
def Ends {α : Type} (x : Op α) (Q : α → State → Prop) (s : State) : Prop :=
  match x s with
  | .ok a t => Q a t
  | .error (.raise _ _ _) _ => True
  | .error (.fault _) _ => False

section rules
variable {α β : Type} {Q : α → State → Prop} {s : State}

theorem Ends.mono {x : Op α} {P : α → State → Prop} (h : Ends x P s) (k : ∀ a t, P a t → Q a t) : Ends x Q s := by
  unfold Ends at *
  split at h
  · exact k _ _ h
  · trivial
  · exact h

@[simp] theorem ends_pure (a : α) : Ends (pure a) Q s ↔ Q a s := Iff.rfl

@[simp] theorem ends_bind {x : Op β} {f : β → Op α} : Ends (x >>= f) Q s ↔ Ends x (fun b t => Ends (f b) Q t) s := by
  unfold Ends
  rw [op_bind]
  rcases x s with _ | ⟨_ | _, _⟩ <;> rfl

@[simp] theorem ends_update {f : State → State} {Q : Unit → State → Prop} : Ends (update f) Q s ↔ Q () (f s) := Iff.rfl

@[simp] theorem ends_look {f : State → α} : Ends (look f) Q s ↔ Q (f s) s := Iff.rfl

@[simp] theorem ends_raise {c : StCode} {r : Option Reason} {d : Detail} : Ends (raise c r d) Q s := trivial

@[simp] theorem ends_raiseTransfer {k : FrameKind} {c : Option Byte} {i : Nat} : Ends (raiseTransfer k c i) Q s := trivial

theorem ends_ite {p : Prop} [Decidable p] {x y : Op α} (hx : p → Ends x Q s) (hy : ¬ p → Ends y Q s) :
    Ends (if p then x else y) Q s := by
  split
  · next h => exact hx h
  · next h => exact hy h

/-- An operation whose body never faults answers a next state (R7, R13). -/
theorem runOperation_next {op : OpName} {src : Option Byte} {body : Op (Option Half)} {Q : Option Half → State → Prop}
    (h : Ends body Q s) : ∃ t, runOperation op src body s = .next t := by
  rcases runOperation_cases op src body s with ⟨r, t, -, e⟩ | ⟨c, rs, d, t, -, e⟩ | ⟨f, t, hb, -⟩
  · exact ⟨_, e⟩
  · exact ⟨_, e⟩
  · rw [Ends, hb] at h
    exact h.elim

end rules

/-! ## The checks at the start of an operation -/

section checks
variable {Q : Unit → State → Prop} {s : State}

theorem ends_requireReady (h : s.drvState = .ready → Q () s) : Ends requireReady Q s := by
  unfold Ends requireReady
  cases hr : pixelLegal s.drvState with
  | true => exact h (of_decide_eq_true hr)
  | false => trivial

theorem ends_requireInitLegal (h : Q () s) : Ends requireInitLegal Q s := by
  unfold Ends requireInitLegal
  cases initLegal s.drvState with
  | true => exact h
  | false => trivial

theorem ends_requireWindow {x0 y0 x1 y1 : Half} (h : Q () s) : Ends (requireWindow x0 y0 x1 y1) Q s := by
  unfold Ends requireWindow
  cases windowInRange s.cfg x0 y0 x1 y1 with
  | true => exact h
  | false => trivial

theorem ends_requireStream (h : s.streamOpen = true → Q () s) : Ends requireStream Q s := by
  unfold Ends requireStream
  cases ho : s.streamOpen with
  | true => exact h ho
  | false => trivial

/-- The bus is idle where a primitive opens a frame (R101). -/
theorem ends_requireIdleBus (hb : s.busSel = false) (h : Q () s) : Ends requireIdleBus Q s := by
  simpa [Ends, requireIdleBus, hb] using h

end checks

/-! ## Legal configurations (R6) -/

theorem wf_bounds {c : Config} (h : c.wf = true) :
    1 ≤ c.panelW ∧ c.panelW ≤ 65536 ∧ 1 ≤ c.panelH ∧ c.panelH ≤ 65536 ∧ 30 ≤ c.headerSize ∧ 1 ≤ c.fillChunk := by
  obtain ⟨hw, hw', hh, hh', hs, hf, -⟩ := of_decide_eq_true h
  exact ⟨hw, hw', hh, hh', hs, hf⟩

/-- The command codes that the sending of bytes tells apart. -/
theorem wf_codes {c : Config} (h : c.wf = true) :
    (c.cmdSwreset ≠ c.cmdRamwr ∧ c.cmdSlpout ≠ c.cmdRamwr ∧ c.cmdColmod ≠ c.cmdRamwr ∧ c.cmdMadctl ≠ c.cmdRamwr ∧
      c.cmdCaset ≠ c.cmdRamwr ∧ c.cmdRaset ≠ c.cmdRamwr ∧ c.cmdDispon ≠ c.cmdRamwr) ∧
    c.cmdCaset ≠ c.cmdSwreset ∧ c.cmdRaset ≠ c.cmdSwreset ∧ c.cmdRaset ≠ c.cmdCaset := by
  obtain ⟨-, -, -, -, -, -, hn⟩ := of_decide_eq_true h
  simp only [Config.commandCodes, List.nodup_cons, List.mem_cons, not_or, List.not_mem_nil] at hn
  grind

/-! ## What port events change -/

/-- `t` differs from `s` at most in what the events of the ports touch: the controller, GRAM, the trace, the answers that wait
and the count of free values. -/
def OnlyPorts (s t : State) : Prop :=
  t = { s with
    ctl := t.ctl, gram := t.gram, gramEpoch := t.gramEpoch, trace := t.trace, claimIn := t.claimIn, txIn := t.txIn
    openIn := t.openIn, readIn := t.readIn, cancelIn := t.cancelIn, freeCtr := t.freeCtr }

theorem onlyPorts_of_onlyController {s t : State} (h : OnlyController s t) : OnlyPorts s t := by
  unfold OnlyPorts
  rw [h]

theorem OnlyPorts.trans {s t u : State} (h : OnlyPorts s t) (k : OnlyPorts t u) : OnlyPorts s u := by
  unfold OnlyPorts at *
  rw [k, h]

section ports
variable {s t : State} (h : OnlyPorts s t)
include h

theorem OnlyPorts.cfg : t.cfg = s.cfg := by rw [h]
theorem OnlyPorts.busSel : t.busSel = s.busSel := by rw [h]
theorem OnlyPorts.streamOpen : t.streamOpen = s.streamOpen := by rw [h]
theorem OnlyPorts.dc : t.dc = s.dc := by rw [h]

end ports

theorem afterTx_onlyPorts (s : State) : OnlyPorts s (afterTx s) := by
  rw [afterTx_eq s]
  rfl

/-- A byte answered ok, at the moment it is delivered: on the trace, its answer taken. -/
def sent (b : Byte) (s : State) : State := record (.tx b true) (afterTx s)

theorem sent_onlyPorts (b : Byte) (s : State) : OnlyPorts s (sent b s) := (afterTx_onlyPorts s).trans rfl

@[simp] theorem sent_ctl (b : Byte) (s : State) : (sent b s).ctl = s.ctl := by
  rw [sent, afterTx_eq s]
  rfl

@[simp] theorem sent_cfg (b : Byte) (s : State) : (sent b s).cfg = s.cfg := (sent_onlyPorts b s).cfg

/-! ## Pixels stay in the panel (R52) -/

/-- In the memory-write context the window lies in the panel, so every pixel of the stream has a cell. -/
def PixelsFit (s : State) : Prop := s.ctl.cmd = some s.cfg.cmdRamwr → windowInPanel s

/-- Only the controller's registers and the configuration matter. -/
theorem PixelsFit.congr {s t : State} (h : PixelsFit s) (hc : t.ctl = s.ctl) (hg : t.cfg = s.cfg) : PixelsFit t := by
  unfold PixelsFit windowInPanel at *
  rwa [hc, hg]

/-- Every pixel of a window in the panel is a cell of GRAM (R52, R126). -/
theorem inPanel_of_windowInPanel {s : State} (h : windowInPanel s) {k : Nat} (hk : k < windowCount s.ctl) :
    inPanel s.cfg (pixelX s.ctl k) (pixelY s.ctl k) = true := by
  obtain ⟨hx, hxe, hy, hye⟩ := h
  have hw : 0 < windowWidth s.ctl := Nat.succ_pos _
  have hcol : k % windowWidth s.ctl < windowWidth s.ctl := Nat.mod_lt _ hw
  have hrow : k / windowWidth s.ctl < windowHeight s.ctl := Nat.div_lt_of_lt_mul hk
  refine decide_eq_true ⟨?_, ?_⟩
  · unfold pixelX
    unfold windowWidth at hcol ⊢
    omega
  · unfold pixelY
    unfold windowHeight at hrow
    omega

/-- A stream byte for a window in the panel has an effect, of the registers on the pixel count and the half pixel alone. -/
theorem ctlStreamByte_ok (b : Byte) {s : State} (h : windowInPanel s) :
    ∃ t, ctlStreamByte b s = .ok t ∧ t.ctl = { s.ctl with wp := t.ctl.wp, hi := t.ctl.hi } := by
  unfold ctlStreamByte
  split
  · split
    · exact ⟨_, rfl, rfl⟩
    · unfold ctlPixel
      split
      · next hk =>
        rw [if_pos (inPanel_of_windowInPanel h hk)]
        exact ⟨_, rfl, rfl⟩
      · exact ⟨_, rfl, rfl⟩
  · refine ⟨_, rfl, ?_⟩
    unfold ctlUndefinedByte freeStreamEffect
    split <;> rfl

theorem ctlWindowByte_cmd (b : Byte) (s : State) (done : Ctl → Ctl) (hd : ∀ c, (done c).cmd = c.cmd) :
    (ctlWindowByte b done s).ctl.cmd = s.ctl.cmd := by
  unfold ctlWindowByte putArg
  split
  · simp only
    split <;> split <;> simp [hd]
  · rfl

/-- A data byte never faults while pixels fit; it keeps the command context, and pixels still fit (R121-R128). -/
theorem ctlData_ok (b : Byte) {s : State} (hw : s.cfg.wf = true) (h : PixelsFit s) :
    ∃ t, ctlData b s = .ok t ∧ t.ctl.cmd = s.ctl.cmd ∧ PixelsFit t := by
  obtain ⟨⟨-, -, -, -, hca, hra, -⟩, -⟩ := wf_codes hw
  by_cases hr : s.ctl.cmd = some s.cfg.cmdRamwr
  · obtain ⟨t, ht, hreg⟩ := ctlStreamByte_ok b (h hr)
    refine ⟨t, ?_, by rw [hreg], fun _ => ?_⟩
    · simp [ctlData, hr, hca.symm, hra.symm, ht]
    · have hwin := h hr
      unfold windowInPanel at hwin ⊢
      rw [hreg, onlyController_cfg (ctlStreamByte_only ht)]
      exact hwin
  · have hcmd : ∃ t, ctlData b s = .ok t ∧ t.ctl.cmd = s.ctl.cmd := by
      unfold ctlData
      rw [if_neg hr]
      split
      · exact ⟨_, rfl, ctlWindowByte_cmd b s setColumns fun _ => rfl⟩
      · split
        · exact ⟨_, rfl, ctlWindowByte_cmd b s setRows fun _ => rfl⟩
        · split
          · exact ⟨_, rfl, by unfold ctlColmodByte; split <;> rfl⟩
          · split
            · exact ⟨_, rfl, by unfold ctlMadctlByte; split <;> rfl⟩
            · exact ⟨_, rfl, rfl⟩
    obtain ⟨t, ht, hc⟩ := hcmd
    refine ⟨t, ht, hc, fun hr' => absurd ?_ hr⟩
    rwa [hc, onlyController_cfg (ctlData_only ht)] at hr'

/-! ## Transfers and frames -/

/-- A byte can be delivered without a fault: as a command, or as data while pixels fit. -/
def Deliverable (s : State) : Prop := s.dc = .cmd ∨ (s.dc = .data ∧ PixelsFit s)

theorem deliver_ok (b : Byte) {s : State} (hw : s.cfg.wf = true) (h : Deliverable s) : ∃ t, deliver b s = .ok t := by
  rcases h with h | ⟨h, hp⟩
  · exact ⟨_, deliver_cmd h⟩
  · obtain ⟨t, ht, -⟩ := ctlData_ok b hw hp
    exact ⟨t, (deliver_data h).trans ht⟩

/-- `Tx(b)` never faults; answered ok, the byte has been delivered (R12, R61). -/
theorem ends_tx {b : Byte} {s : State} (hw : s.cfg.wf = true) (h : Deliverable s) :
    Ends (tx b) (fun ok t => ok = true → deliver b (sent b s) = .ok t) s := by
  have hok : ∀ e, ∃ t, deliver b (record e (afterTx s)) = .ok t := by
    intro e
    rw [afterTx_eq s]
    exact deliver_ok b hw h
  unfold Ends tx transfer sent
  cases nextTx s with
  | ok =>
    obtain ⟨t, ht⟩ := hok (.tx b true)
    simp [TxAns.isOk, TxAns.isReceived, ht]
  | failDelivered =>
    obtain ⟨t, ht⟩ := hok (.tx b false)
    simp [TxAns.isOk, TxAns.isReceived, ht]
  | failLost => simp [TxAns.isOk, TxAns.isReceived]

/-- A command byte answered ok is the controller's next command. -/
theorem ends_tx_cmd {b : Byte} {s : State} (hw : s.cfg.wf = true) (h : s.dc = .cmd) :
    Ends (tx b) (fun ok t => ok = true → t = ctlCommand b (sent b s)) s := by
  refine (ends_tx hw (.inl h)).mono fun ok t ht hok => ?_
  have hd : deliver b (sent b s) = .ok (ctlCommand b (sent b s)) := deliver_cmd ((sent_onlyPorts b s).dc.trans h)
  rw [ht hok] at hd
  injection hd

/-- CMD_FRAME (R102): released again, the byte delivered. -/
theorem ends_cmdFrame {c : Byte} {s : State} (hw : s.cfg.wf = true) (hb : s.busSel = false) :
    Ends (cmdFrame c) (fun _ t => OnlyPorts { s with dc := .cmd, busSel := false } t ∧
      ∃ u, u.cfg = s.cfg ∧ u.ctl = s.ctl ∧ t.ctl = (ctlCommand c u).ctl) s := by
  simp only [cmdFrame, ends_bind, ends_update]
  refine ends_requireIdleBus hb ?_
  refine (ends_tx_cmd (s := selectBus (driveCmd s)) hw rfl).mono fun ok t ht =>
    ends_ite (fun hok => ?_) fun _ => ends_raiseTransfer
  subst hok
  obtain rfl := ht rfl
  have hports : OnlyPorts (selectBus (driveCmd s)) (ctlCommand c (sent c (selectBus (driveCmd s)))) :=
    (sent_onlyPorts c _).trans (onlyPorts_of_onlyController (ctlCommand_only c _))
  refine ⟨?_, sent c (selectBus (driveCmd s)), by simp, by simp, rfl⟩
  unfold OnlyPorts
  unfold OnlyPorts at hports
  rw [hports]
  rfl

/-- The rule for the bytes of a frame or stream: `I` speaks of the bytes still to come, lets the next one be delivered, and
is kept by its delivery. -/
theorem ends_sendBytes {frame : FrameKind} {close : State → State} (I : List Byte → State → Prop)
    (hready : ∀ b bs s, I (b :: bs) s → s.cfg.wf = true ∧ Deliverable s)
    (hstep : ∀ b bs s t, I (b :: bs) s → deliver b (sent b s) = .ok t → I bs t) {bs : List Byte} {i : Nat} {s : State}
    (h : I bs s) : Ends (sendBytes frame close i bs) (fun _ t => I [] t) s := by
  induction bs generalizing i s with
  | nil => exact h
  | cons b bs ih =>
    obtain ⟨hw, hd⟩ := hready b bs s h
    simp only [sendBytes, ends_bind]
    refine (ends_tx hw hd).mono fun ok t ht => ends_ite (fun hok => ?_) fun _ => ?_
    · exact ih (hstep b bs s t h (ht hok))
    · simp only [ends_bind, ends_update]
      exact trivial

/-- What the data bytes of a frame or stream keep, from the state `s` on. -/
structure Sending (s t : State) : Prop where
  ports : OnlyPorts s t
  wf : t.cfg.wf = true
  dataMode : t.dc = .data
  fits : PixelsFit t
  cmd : t.ctl.cmd = s.ctl.cmd

theorem Sending.refl {s : State} (hw : s.cfg.wf = true) (hd : s.dc = .data) (hp : PixelsFit s) : Sending s s :=
  ⟨rfl, hw, hd, hp, rfl⟩

theorem Sending.deliverable {s t : State} (h : Sending s t) : Deliverable t := .inr ⟨h.dataMode, h.fits⟩

theorem deliver_sent_data {b : Byte} {s t : State} (hd : s.dc = .data) (h : deliver b (sent b s) = .ok t) :
    ctlData b (sent b s) = .ok t := (deliver_data ((sent_onlyPorts b s).dc.trans hd)).symm.trans h

theorem Sending.step {b : Byte} {s t u : State} (h : Sending s t) (hu : deliver b (sent b t) = .ok u) : Sending s u := by
  have hu := deliver_sent_data h.dataMode hu
  have hw : OnlyPorts t u := (sent_onlyPorts b t).trans (onlyPorts_of_onlyController (ctlData_only hu))
  obtain ⟨v, hv, hcmd, hfit⟩ :=
    ctlData_ok b (s := sent b t) (by simpa using h.wf) (h.fits.congr (sent_ctl b t) (sent_cfg b t))
  obtain rfl : v = u := by
    rw [hu] at hv
    injection hv with hv
    exact hv.symm
  exact ⟨h.ports.trans hw, hw.cfg ▸ h.wf, hw.dc.trans h.dataMode, hfit, by rw [hcmd, sent_ctl, h.cmd]⟩

/-- Data bytes never fault while pixels fit. -/
theorem ends_sendBytes_sending {frame : FrameKind} {close : State → State} {bs : List Byte} {i : Nat} {s : State}
    (hw : s.cfg.wf = true) (hd : s.dc = .data) (hp : PixelsFit s) :
    Ends (sendBytes frame close i bs) (fun _ t => Sending s t) s :=
  ends_sendBytes (fun _ t => Sending s t) (fun _ _ _ h => ⟨h.wf, h.deliverable⟩) (fun _ _ _ _ h hu => h.step hu)
    (.refl hw hd hp)

/-- DATA_FRAME is the sending of its bytes between the drive of the lines and the release (R103). -/
theorem ends_dataFrame {bs : List Byte} {P : State → Prop} {s : State} (hb : s.busSel = false) (hn : bs ≠ [])
    (h : Ends (sendBytes .data releaseBus 0 bs) (fun _ t => P (releaseBus t)) (selectBus (driveData s))) :
    Ends (dataFrame bs) (fun _ t => P t) s := by
  simp only [dataFrame, ends_bind]
  refine ends_requireIdleBus hb (ends_ite (fun he => absurd (List.isEmpty_iff.1 he) hn) fun _ => ?_)
  simpa only [ends_bind, ends_update] using h

/-- A command byte other than SWRESET opens its context with no payload yet, and sets at most the display registers and the
stream's count and half pixel (R121-R129). -/
theorem ctlCommand_ctl {b : Byte} {s : State} (hb : b ≠ s.cfg.cmdSwreset) :
    (ctlCommand b s).ctl = { (ctlCutShort s).ctl with
      cmd := some b, argi := 0, sleep := (ctlCommand b s).ctl.sleep, disp := (ctlCommand b s).ctl.disp
      wp := (ctlCommand b s).ctl.wp, hi := (ctlCommand b s).ctl.hi } := by
  have hc : (ctlBegin b (ctlEndContext s)).cfg = s.cfg :=
    onlyController_cfg (onlyController_trans (ctlEndContext_only s) (ctlBegin_only b _))
  unfold ctlCommand ctlEffect
  rw [hc, if_neg hb]
  split
  · rfl
  · split
    · rfl
    · split <;> rfl

theorem ctlCommand_cmd {b : Byte} {s : State} (hb : b ≠ s.cfg.cmdSwreset) : (ctlCommand b s).ctl.cmd = some b := by
  rw [ctlCommand_ctl hb]

theorem ctlCommand_argi {b : Byte} {s : State} (hb : b ≠ s.cfg.cmdSwreset) : (ctlCommand b s).ctl.argi = 0 := by
  rw [ctlCommand_ctl hb]

/-- SWRESET leaves no context (R122). -/
theorem ctlCommand_swreset (s : State) : (ctlCommand s.cfg.cmdSwreset s).ctl.cmd = none := by
  have hc : (ctlBegin s.cfg.cmdSwreset (ctlEndContext s)).cfg = s.cfg :=
    onlyController_cfg (onlyController_trans (ctlEndContext_only s) (ctlBegin_only _ _))
  unfold ctlCommand ctlEffect
  rw [hc, if_pos rfl]
  rfl

/-- Only the memory-write command opens the memory-write context (R121, R126). -/
theorem ctlCommand_cmd_ne {b code : Byte} (s : State) (h : b ≠ code) : (ctlCommand b s).ctl.cmd ≠ some code := by
  by_cases hb : b = s.cfg.cmdSwreset
  · subst hb
    rw [ctlCommand_swreset]
    nofun
  · rw [ctlCommand_cmd hb]
    exact fun hc => h (Option.some.inj hc)

/-- A window command's payload that came whole is not lost at the next command byte (R124). -/
theorem ctlCommand_window {b : Byte} {s : State} (hb : b ≠ s.cfg.cmdSwreset) (h4 : 4 ≤ s.ctl.argi) :
    WindowIs (ctlCommand b s) s.ctl.xs s.ctl.ys s.ctl.xe s.ctl.ye := by
  have hcut : ctlCutShort s = s := if_neg (Nat.not_lt.2 h4)
  rw [WindowIs, ctlCommand_ctl hb, hcut]
  exact ⟨rfl, rfl, rfl, rfl⟩

/-- CMD_WITH_PAYLOAD of any command but RAMWR (R104): its data bytes are no pixels. -/
theorem ends_cmdWithPayload {c : Byte} {bs : List Byte} {s : State} (hw : s.cfg.wf = true) (hb : s.busSel = false)
    (hc : c ≠ s.cfg.cmdRamwr) : Ends (cmdWithPayload c bs) (fun _ t => t.cfg = s.cfg ∧ t.busSel = false) s := by
  simp only [cmdWithPayload, ends_bind]
  refine (ends_cmdFrame hw hb).mono ?_
  rintro - t ⟨ht, u, -, -, hu⟩
  have hcfg : t.cfg = s.cfg := ht.cfg
  have hfit : PixelsFit t := fun hr => absurd (hcfg ▸ hu ▸ hr) (ctlCommand_cmd_ne u hc)
  refine ends_ite (fun _ => ⟨hcfg, ht.busSel⟩) fun hne => ?_
  refine ends_dataFrame ht.busSel (fun h => hne (List.isEmpty_iff.2 h)) ?_
  refine (ends_sendBytes_sending (s := selectBus (driveData t)) (hcfg ▸ hw) rfl hfit).mono fun _ v hv => ?_
  exact ⟨hv.ports.cfg.trans hcfg, rfl⟩

/-! ## The window on the bus (R75, R124, R125, R143) -/

/-- What a payload byte of a window command does to the controller's registers (R124). -/
def windowStep (done : Ctl → Ctl) (c : Ctl) (b : Byte) : Ctl :=
  if c.argi < 4 then
    let d := { putArg c.argi b c with argi := c.argi + 1 }
    if d.argi = 4 then done d else d
  else c

theorem ctlWindowByte_ctl (b : Byte) (done : Ctl → Ctl) (s : State) :
    (ctlWindowByte b done s).ctl = windowStep done s.ctl b := by
  unfold ctlWindowByte windowStep
  split <;> rfl

/-- The controller's registers with a window command's whole payload in `ctl_args` (R75, R124). -/
def wholePayload (x y : Half) (c : Ctl) : Ctl :=
  { c with arg0 := hiByte x, arg1 := loByte x, arg2 := hiByte y, arg3 := loByte y, argi := 4 }

/-- The whole payload reaches `ctl_args`, and then the window registers (R75, R124). -/
theorem foldl_windowStep (done : Ctl → Ctl) {c : Ctl} (h : c.argi = 0) (x y : Half) :
    (windowPayload x y).foldl (windowStep done) c = done (wholePayload x y c) := by
  simp [windowPayload, be16Bytes, windowStep, putArg, wholePayload, h]

/-- CASET or RASET with its payload (R124, R125): all four bytes have reached the command's registers. -/
theorem ends_windowCommand {code : Byte} {done : Ctl → Ctl} {x y : Half} {s : State} (hw : s.cfg.wf = true)
    (hb : s.busSel = false) (hr : code ≠ s.cfg.cmdRamwr) (hs : code ≠ s.cfg.cmdSwreset)
    (hdata : ∀ (b : Byte) (t : State), t.cfg = s.cfg → t.ctl.cmd = some code → ctlData b t = .ok (ctlWindowByte b done t)) :
    Ends (cmdWithPayload code (windowPayload x y)) (fun _ t => OnlyPorts { s with dc := .data, busSel := false } t ∧
      ∃ u, u.cfg = s.cfg ∧ u.ctl = s.ctl ∧ t.ctl = done (wholePayload x y (ctlCommand code u).ctl)) s := by
  simp only [cmdWithPayload, ends_bind]
  refine (ends_cmdFrame hw hb).mono ?_
  rintro - t ⟨ht, u, hucfg, huctl, hu⟩
  have hcfg : t.cfg = s.cfg := ht.cfg
  have hs' : code ≠ u.cfg.cmdSwreset := hucfg ▸ hs
  have hcmd : t.ctl.cmd = some code := by rw [hu, ctlCommand_cmd hs']
  have hfit : PixelsFit t := fun h => absurd (Option.some.inj (hcmd.symm.trans (hcfg ▸ h))) hr
  refine ends_dataFrame ht.busSel (by simp [windowPayload, be16Bytes]) ?_
  refine (ends_sendBytes
    (fun bs v => Sending (selectBus (driveData t)) v ∧
      bs.foldl (windowStep done) v.ctl = (windowPayload x y).foldl (windowStep done) t.ctl)
    (fun _ _ _ h => ⟨h.1.wf, h.1.deliverable⟩) ?_ ⟨.refl (hcfg ▸ hw) rfl hfit, rfl⟩).mono ?_
  · rintro b bs v v' ⟨hv, hgoal⟩ hd
    refine ⟨hv.step hd, ?_⟩
    have hd := deliver_sent_data hv.dataMode hd
    rw [hdata b _ (by simpa using hv.ports.cfg.trans hcfg) (by simpa using hv.cmd.trans hcmd)] at hd
    injection hd with hd
    rw [← hd, ctlWindowByte_ctl, sent_ctl]
    exact hgoal
  · rintro - v ⟨hv, hgoal⟩
    have hports := hv.ports
    refine ⟨?_, u, hucfg, huctl, ?_⟩
    · unfold OnlyPorts at *
      rw [hports, ht]
      rfl
    · rw [← hu]
      exact hgoal.trans (foldl_windowStep done (by rw [hu, ctlCommand_argi hs']) x y)

/-- CASET with its payload: the columns are set (R124). -/
theorem ends_columns {x0 x1 : Half} {s : State} (hw : s.cfg.wf = true) (hb : s.busSel = false) :
    Ends (cmdWithPayload s.cfg.cmdCaset (windowPayload x0 x1)) (fun _ t =>
      OnlyPorts { s with dc := .data, busSel := false } t ∧ t.ctl.argi = 4 ∧ t.ctl.xs = x0 ∧ t.ctl.xe = x1) s := by
  obtain ⟨⟨-, -, -, -, hr, -⟩, hs, -⟩ := wf_codes hw
  refine (ends_windowCommand (done := setColumns) hw hb hr hs ?_).mono ?_
  · intro b t ht hcmd
    simp [ctlData, ht, hcmd]
  · rintro - t ⟨ht, u, -, -, hu⟩
    rw [hu]
    exact ⟨ht, rfl, be16_hiByte_loByte x0, be16_hiByte_loByte x1⟩

/-- RASET with its payload after a whole CASET: the rows are set, the columns stay (R125). -/
theorem ends_rows {y0 y1 : Half} {s : State} (hw : s.cfg.wf = true) (hb : s.busSel = false) (h4 : s.ctl.argi = 4) :
    Ends (cmdWithPayload s.cfg.cmdRaset (windowPayload y0 y1)) (fun _ t =>
      OnlyPorts { s with dc := .data, busSel := false } t ∧ t.ctl.argi = 4 ∧ WindowIs t s.ctl.xs y0 s.ctl.xe y1) s := by
  obtain ⟨⟨-, -, -, -, -, hr, -⟩, -, hs, hc⟩ := wf_codes hw
  refine (ends_windowCommand (done := setRows) hw hb hr hs ?_).mono ?_
  · intro b t ht hcmd
    simp [ctlData, ht, hcmd, hc]
  · rintro - t ⟨ht, u, hucfg, huctl, hu⟩
    obtain ⟨hxs, hxe, -, -⟩ := ctlCommand_window (b := s.cfg.cmdRaset) (s := u) (hucfg ▸ hs) (by rw [huctl, h4])
    rw [WindowIs, hu, ← huctl]
    exact ⟨ht, rfl, hxs, hxe, be16_hiByte_loByte y0, be16_hiByte_loByte y1⟩

/-- OPEN_STREAM (R105): CS stays selected in data mode, the memory-write context is open, and a whole window is kept. -/
theorem ends_openStream {s : State} (hw : s.cfg.wf = true) (hb : s.busSel = false) (h4 : s.ctl.argi = 4) :
    Ends openStream (fun _ t => OnlyPorts { s with dc := .data, busSel := true, streamOpen := true } t ∧
      t.ctl.cmd = some s.cfg.cmdRamwr ∧ WindowIs t s.ctl.xs s.ctl.ys s.ctl.xe s.ctl.ye) s := by
  simp only [openStream, ends_bind, ends_look, ends_update]
  refine ends_requireIdleBus hb ?_
  refine (ends_tx_cmd (s := selectBus (driveCmd s)) hw rfl).mono fun ok t ht => ends_ite (fun hok => ?_) fun _ => ?_
  · simp only [ends_bind, ends_update]
    obtain rfl := ht hok
    have hports : OnlyPorts (selectBus (driveCmd s))
        (ctlCommand s.cfg.cmdRamwr (sent s.cfg.cmdRamwr (selectBus (driveCmd s)))) :=
      (sent_onlyPorts _ _).trans (onlyPorts_of_onlyController (ctlCommand_only _ _))
    have hs : s.cfg.cmdRamwr ≠ (sent s.cfg.cmdRamwr (selectBus (driveCmd s))).cfg.cmdSwreset := by
      simpa using (wf_codes hw).1.1.symm
    have hwin := ctlCommand_window hs (by simpa using h4.ge)
    rw [sent_ctl] at hwin
    refine ⟨?_, ctlCommand_cmd hs, hwin⟩
    unfold OnlyPorts at *
    rw [hports]
    rfl
  · simp only [ends_bind, ends_update]
    exact ends_raiseTransfer

/-- The frames of SET_WINDOW (R143): the stream is open over the window they name. -/
theorem ends_windowFrames {x0 y0 x1 y1 : Half} {s : State} (hw : s.cfg.wf = true) (hb : s.busSel = false) :
    Ends (windowFrames x0 y0 x1 y1) (fun _ t => OnlyPorts { s with dc := .data, busSel := true, streamOpen := true } t ∧
      t.ctl.cmd = some s.cfg.cmdRamwr ∧ WindowIs t x0 y0 x1 y1) s := by
  simp only [windowFrames, ends_bind, ends_look]
  refine (ends_columns hw hb).mono ?_
  rintro - t ⟨ht, ht4, hxs, hxe⟩
  have htcfg : t.cfg = s.cfg := ht.cfg
  rw [← htcfg] at hw ⊢
  refine (ends_rows hw ht.busSel ht4).mono ?_
  rintro - u ⟨hu, hu4, huwin⟩
  have hucfg : u.cfg = t.cfg := hu.cfg
  rw [← hucfg] at hw ⊢
  refine (ends_openStream hw hu.busSel hu4).mono ?_
  rintro - v ⟨hv, hvcmd, hvwin⟩
  obtain ⟨huxs, huys, huxe, huye⟩ := huwin
  rw [huxs, huys, huxe, huye, hxs, hxe] at hvwin
  refine ⟨?_, hvcmd, hvwin⟩
  unfold OnlyPorts at *
  rw [hv, hu, ht]

end Sys2Proof.Proofs
end

section
/-! PROOFS. The driver's operations never fault (spec/42_driver_ops.md). -/

namespace Sys2Proof.Proofs

open Sys2Proof.Machine Sys2Proof.Safety

/-! ## Streams (R105-R107, R143, R148) -/

/-- A state whose open stream takes any bytes (R106): in data mode, its pixels in the panel. -/
structure CanAppend (s : State) : Prop where
  wf : s.cfg.wf = true
  isOpen : s.streamOpen = true
  dataMode : s.dc = .data
  fits : PixelsFit s

theorem CanAppend.setSeq {s : State} (h : CanAppend s) (q : Seq) : CanAppend (setSeq q s) :=
  ⟨h.wf, h.isOpen, h.dataMode, h.fits⟩

/-- APPEND (R106): the stream stays open for more. -/
theorem ends_append {bs : List Byte} {s : State} (h : CanAppend s) :
    Ends (append bs) (fun _ t => OnlyPorts s t ∧ CanAppend t) s := by
  simp only [append, ends_bind, ends_look]
  refine ends_ite (fun _ => ?_) fun hn => absurd h.isOpen hn
  refine (ends_sendBytes_sending h.wf h.dataMode h.fits).mono fun _ t ht => ?_
  exact ⟨ht.ports, ht.wf, ht.ports.streamOpen.trans h.isOpen, ht.dataMode, ht.fits⟩

/-- CLOSE_STREAM frees the bus that the stream alone holds (R25, R107). -/
theorem closeStream_onlyPorts {s : State} (hb : s.busSel = s.streamOpen) :
    OnlyPorts { s with busSel := false, streamOpen := false } (closeStream s) := by
  rcases closeStream_cases s with ⟨ho, e⟩ | ⟨-, g, k, n, e⟩
  · have hs : { s with busSel := false, streamOpen := false } = s := by
      cases s
      simp_all
    rw [hs, e]
    rfl
  · rw [e]
    rfl

/-- The body of SET_WINDOW (R143, R148, R181). -/
theorem ends_windowBody {x0 y0 x1 y1 : Half} {s : State} (hw : s.cfg.wf = true) (hb : s.busSel = s.streamOpen) :
    Ends (windowBody x0 y0 x1 y1) (fun _ t => OnlyPorts { s with dc := .data, busSel := true, streamOpen := true } t ∧
      t.ctl.cmd = some s.cfg.cmdRamwr ∧ WindowIs t x0 y0 x1 y1) s := by
  have hclose := closeStream_onlyPorts hb
  have hcfg : (closeStream s).cfg = s.cfg := closeStream_cfg s
  have hframes := ends_windowFrames (x0 := x0) (y0 := y0) (x1 := x1) (y1 := y1) (hcfg ▸ hw) (closeStream_busSel s hb)
  unfold Ends windowBody
  unfold Ends at hframes
  cases hf : windowFrames x0 y0 x1 y1 (closeStream s) with
  | ok u t =>
    rw [hf] at hframes
    obtain ⟨ht, hcmd, hwin⟩ := hframes
    refine ⟨?_, hcfg ▸ hcmd, hwin⟩
    unfold OnlyPorts at *
    rw [ht, hclose]
  | error e t =>
    rw [hf] at hframes
    cases e with
    | raise code r d => trivial
    | fault f => exact hframes

/-- The last column or row of an extent that the configuration admits, as a window operand (R6, R148). -/
theorem toNat_last {n : Nat} (h : 1 ≤ n) (h' : n ≤ 65536) : (BitVec.ofNat 16 (n - 1)).toNat = n - 1 := by
  rw [BitVec.toNat_ofNat]
  omega

/-- The body of SET_WINDOW from the origin to a column and row of the panel (R148, R181): the stream takes any bytes. -/
theorem ends_windowBody_origin {w h : Nat} {s : State} (hw : s.cfg.wf = true) (hb : s.busSel = s.streamOpen)
    (hw0 : 1 ≤ w) (hwp : w ≤ s.cfg.panelW) (hh0 : 1 ≤ h) (hhp : h ≤ s.cfg.panelH) :
    Ends (windowBody 0 0 (BitVec.ofNat 16 (w - 1)) (BitVec.ofNat 16 (h - 1)))
      (fun _ t => OnlyPorts { s with dc := .data, busSel := true, streamOpen := true } t ∧ CanAppend t) s := by
  refine (ends_windowBody hw hb).mono ?_
  rintro - t ⟨ht, -, hxs, hys, hxe, hye⟩
  obtain ⟨-, hpw, -, hph, -⟩ := wf_bounds hw
  have hcfg : t.cfg = s.cfg := ht.cfg
  have hx := toNat_last hw0 (hwp.trans hpw)
  have hy := toNat_last hh0 (hhp.trans hph)
  refine ⟨ht, hcfg ▸ hw, ht.streamOpen, ht.dc, fun _ => ?_⟩
  rw [windowInPanel, hxs, hys, hxe, hye, hcfg, hx, hy]
  exact ⟨Nat.zero_le _, by omega, Nat.zero_le _, by omega⟩

/-! ## INIT (R141) -/

/-- The bus is free, the configuration `c`. -/
def BusFree (c : Config) (s : State) : Prop := s.cfg = c ∧ s.busSel = false

/-- A step of INIT never faults where its body does not: every raise of the body is a raise of the step (R141, R215). -/
theorem ends_initStep {n : Nat} {q : Seq} {body : Op Unit} {Q : Unit → State → Prop} {s : State}
    (h : Ends body Q (setSeq q s)) : Ends (initStep n q body) Q s := by
  unfold Ends initStep at *
  rcases hb : body (setSeq q s) with ⟨u, t⟩ | ⟨⟨code, r, d⟩ | f, t⟩
  · simpa [hb] using h
  · cases code <;> trivial
  · simp [hb] at h

/-- A command of INIT other than RAMWR, with its settle delay, as a step of INIT (R110, R141). -/
theorem ends_initCommand {n : Nat} {q : Seq} {code : Config → Byte} {payload : Config → List Byte} {d : Delay} {c : Config}
    {s : State} {Q : Unit → State → Prop} (hw : c.wf = true) (hc : code c ≠ c.cmdRamwr) (h : BusFree c s)
    (hQ : ∀ t, BusFree c t → Q () t) : Ends (initStep n q (commandThenSettle code payload d)) Q s := by
  obtain ⟨rfl, hb⟩ := h
  refine ends_initStep ?_
  simp only [commandThenSettle, ends_bind, ends_look, ends_update]
  exact (ends_cmdWithPayload (s := setSeq q s) hw hb hc).mono fun _ t ht => hQ _ ht

/-- INIT steps 2 to 6 (R141): no command of them is RAMWR. -/
theorem ends_initSequence {c : Config} {s : State} {Q : Unit → State → Prop} (hw : c.wf = true) (h : BusFree c s)
    (hQ : ∀ t, BusFree c t → Q () t) : Ends initSequence Q s := by
  obtain ⟨⟨hswreset, hslpout, hcolmod, hmadctl, -, -, hdispon⟩, -⟩ := wf_codes hw
  simp only [initSequence, ends_bind, ends_update]
  refine ends_initCommand hw hswreset h fun t h => ?_
  refine ends_initCommand hw hslpout h fun t h => ?_
  refine ends_initCommand hw hcolmod h fun t h => ?_
  refine ends_initCommand hw hmadctl h fun t h => ?_
  exact ends_initCommand hw hdispon h hQ

theorem ends_busClaim {s : State} : Ends busClaim (fun _ t => OnlyPorts s t) s := by
  unfold Ends busClaim
  cases s.claimIn <;> rfl

/-- The bus claim of INIT ends the operation where it is refused (R141). -/
theorem ends_initClaim {s : State} : Ends initClaim (fun _ t => OnlyPorts (setSeq .initClaim s) t) s := by
  simp only [initClaim, ends_bind, ends_update]
  refine ends_busClaim.mono fun ok t ht => ends_ite (fun _ => ht) fun _ => ?_
  simp only [ends_bind, ends_update]
  exact ends_raise

theorem initPulse_busFree {c : Config} {s : State} (h : BusFree c s) : BusFree c (initPulse s) := by
  unfold initPulse
  split <;> exact h

theorem ends_initBody {s : State} (hw : s.cfg.wf = true) (hb : s.busSel = s.streamOpen) :
    Ends initBody (fun _ _ => True) s := by
  simp only [initBody, ends_bind, ends_update]
  refine ends_requireInitLegal (ends_initClaim.mono fun _ t ht => ?_)
  have hclose := closeStream_onlyPorts hb
  have hfree : BusFree s.cfg t := ⟨ht.cfg.trans hclose.cfg, ht.busSel.trans hclose.busSel⟩
  exact ends_initSequence hw (initPulse_busFree hfree) fun _ _ => trivial

/-! ## SET_WINDOW, WRITE_PIXELS, END_WRITE (R143, R145, R147) -/

theorem ends_setWindowBody {x0 y0 x1 y1 : Half} {s : State} (hw : s.cfg.wf = true) (hb : s.busSel = s.streamOpen) :
    Ends (setWindowBody x0 y0 x1 y1) (fun _ _ => True) s := by
  simp only [setWindowBody, ends_bind]
  exact ends_requireReady fun _ => ends_requireWindow ((ends_windowBody hw hb).mono fun _ _ _ => trivial)

theorem ends_writePixelsBody {bytes : List Byte} {s : State} (h : s.streamOpen = true → CanAppend s) :
    Ends (writePixelsBody bytes) (fun _ _ => True) s := by
  simp only [writePixelsBody, ends_bind]
  exact ends_requireReady fun _ => ends_requireStream fun ho => (ends_append (h ho)).mono fun _ _ _ => trivial

theorem ends_endWriteBody {s : State} : Ends endWriteBody (fun _ _ => True) s := by
  simp only [endWriteBody, ends_bind, ends_update]
  exact ends_requireReady fun _ => trivial

/-! ## CONVERT (R170) -/

theorem ends_convertBody {r g b : Byte} {s : State} : Ends (convertBody r g b) (fun _ _ => True) s := by
  simp only [convertBody, ends_bind, ends_look, ends_pure]

/-! ## FILL (R148) -/

/-- The rounds left are enough for the bytes left, as every round of a legal configuration sends at least one (R6, R148). -/
theorem ends_fillLoop {color : Half} {total fuel sent : Nat} {s : State} (h : CanAppend s) (hf : total ≤ sent + fuel) :
    Ends (fillLoop color total fuel sent) (fun _ _ => True) s := by
  induction fuel generalizing sent s with
  | zero => exact ends_ite (fun hlt => absurd hf (by omega)) fun _ => trivial
  | succ fuel ih =>
    refine ends_ite (fun hlt => ?_) fun _ => trivial
    simp only [ends_bind, ends_update, ends_look]
    obtain ⟨-, -, -, -, -, hchunk⟩ := wf_bounds h.wf
    refine (ends_append (h.setSeq _)).mono fun _ t ht => ih ht.2 ?_
    have : 1 ≤ (setSeq (.fillData sent) s).cfg.fillChunk := hchunk
    omega

theorem ends_fillBody {color : Half} {s : State} (hw : s.cfg.wf = true) (hb : s.busSel = s.streamOpen) :
    Ends (fillBody color) (fun _ _ => True) s := by
  obtain ⟨hpw, -, hph, -⟩ := wf_bounds hw
  simp only [fillBody, ends_bind, ends_update, ends_look]
  refine ends_requireReady fun _ => ?_
  refine (ends_windowBody_origin (s := setSeq .fillWin s) hw hb hpw le_rfl hph le_rfl).mono fun _ t ht => ?_
  exact (ends_fillLoop ht.2 (by omega)).mono fun _ _ _ => trivial

end Sys2Proof.Proofs
end

section
/-! PROOFS. DECODE_BMP never faults (spec/44_bitmap_decoder.md): it reads only registers and buffer bytes that it has written
(R29-R31, 93 I14), within the buffers (R50). -/

namespace Sys2Proof.Proofs

open Sys2Proof.Machine Sys2Proof.Safety

/-! ## Registers, buffers and the source port -/

section parts
variable {α : Type} {s : State}

theorem ends_readDec {r : DecReg} {f : State → α} {Q : α → State → Prop} (h : r ∈ s.decWritten) (hQ : Q (f s) s) :
    Ends (readDec r f) Q s := by
  rw [Ends, readDec_ok h]
  exact hQ

/-- The first `n` bytes of a buffer have been written by the running DECODE_BMP, and hold values. -/
def Readable (b : Buffer) (n : Nat) (s : State) : Prop :=
  n ≤ bufferWritten s b ∧ ∀ i, i < n → ∃ v, memRead (bufferCells s b) i = some v

theorem Readable.le {b : Buffer} {m n : Nat} (h : Readable b n s) (hm : m ≤ n) : Readable b m s :=
  ⟨hm.trans h.1, fun i hi => h.2 i (hi.trans_le hm)⟩

theorem ends_readBufferByte {b : Buffer} {n i : Nat} {Q : Byte → State → Prop} (h : Readable b n s) (hi : i < n)
    (hQ : ∀ v, Q v s) : Ends (readBufferByte b i) Q s := by
  obtain ⟨v, hv⟩ := h.2 i hi
  rw [Ends, readBufferByte_ok (hi.trans_le h.1) hv]
  exact hQ v

theorem memReadBytes_isOk {m : List Host.Cell} {a n : Nat} (h : ∀ i, i < n → ∃ v, memRead m (a + i) = some v) :
    ∃ bytes, memReadBytes m a n = .ok bytes := by
  induction n generalizing a with
  | zero => exact ⟨[], rfl⟩
  | succ n ih =>
    obtain ⟨v, hv⟩ := h 0 (Nat.succ_pos n)
    obtain ⟨vs, hvs⟩ := ih (a := a + 1) fun i hi => by
      simpa [show a + 1 + i = a + (i + 1) by omega] using h (i + 1) (by omega)
    exact ⟨v :: vs, by simp [memReadBytes, show memRead m a = some v from hv, hvs]⟩

theorem ends_readBuffer {b : Buffer} {n : Nat} {Q : List Byte → State → Prop} (h : Readable b n s)
    (hQ : ∀ bytes, Q bytes s) : Ends (readBuffer b 0 n) Q s := by
  obtain ⟨bytes, hbytes⟩ := memReadBytes_isOk (m := bufferCells s b) (a := 0) (n := n) (by simpa using h.2)
  rw [Ends, readBuffer_ok (by simpa using h.1) hbytes]
  exact hQ bytes

/-- A write that adjoins the readable bytes of a buffer makes its own bytes readable too. -/
theorem readable_write {b : Buffer} {i : Nat} {bytes : List Byte} (h : Readable b i s) :
    Readable b (i + bytes.length) (setBuffer b (memWriteBytes (bufferCells s b) i bytes)
      (writtenAfter (bufferWritten s b) i bytes.length) s) := by
  refine ⟨?_, fun j hj => ?_⟩
  · rw [bufferWritten_setBuffer]
    exact writtenAfter_adjoin h.1
  · rw [bufferCells_setBuffer]
    by_cases hji : j < i
    · rw [memRead_writeBytes_outside _ _ _ _ (.inl hji)]
      exact h.2 j hji
    · obtain ⟨k, rfl⟩ := Nat.exists_eq_add_of_le (Nat.le_of_not_lt hji)
      exact ⟨_, memRead_writeBytes_inside _ _ _ _ (by omega)⟩

/-- Writing another buffer takes no byte away. -/
theorem readable_other {b c : Buffer} {n k : Nat} {m : List Host.Cell} (h : Readable b n s) (hbc : b ≠ c) :
    Readable b n (setBuffer c m k s) := by
  rwa [Readable, bufferWritten_setBuffer_other hbc, bufferCells_setBuffer_other hbc]

theorem ends_writeBuffer {b : Buffer} {i : Nat} {bytes : List Byte} {Q : Unit → State → Prop} (h : Readable b i s)
    (hfit : i + bytes.length ≤ bufferSize s.cfg b)
    (hQ : ∀ m k, Readable b (i + bytes.length) (setBuffer b m k s) → Q () (setBuffer b m k s)) :
    Ends (writeBuffer b i bytes) Q s := by
  rw [Ends, writeBuffer_ok hfit]
  exact hQ _ _ (readable_write h)

theorem readable_zero (b : Buffer) : Readable b 0 s := ⟨Nat.zero_le _, nofun⟩

theorem ends_srcOpen {h : Byte} {Q : Bool → State → Prop} (hQ : ∀ ok t, OnlyPorts s t → Q ok t) :
    Ends (srcOpen h) Q s := by
  unfold Ends srcOpen
  cases s.openIn <;> exact hQ _ _ rfl

/-- A source read answered ok has exactly the bytes asked for (R11). The controller is not concerned. -/
theorem ends_srcRead {off n : Nat} {Q : ReadAns → State → Prop}
    (hQ : ∀ ans t, OnlyPorts s t → t.ctl = s.ctl → (∀ bs, ans = .ok bs → bs.length = n) → Q ans t) :
    Ends (srcRead off n) Q s := by
  have hlen : ∀ a bs, readAnswer n a = .ok bs → bs.length = n := by
    intro a bs h
    cases a with
    | fail => cases h
    | data ds =>
      rw [readAnswer_data] at h
      split at h
      · next hn =>
        cases h
        rw [List.length_take, Nat.min_eq_left hn]
      · cases h
  unfold Ends srcRead
  cases s.readIn <;> exact hQ _ _ rfl rfl (hlen _)

theorem ends_sampleCancel {Q : Bool → State → Prop} (hQ : ∀ stop t, OnlyPorts s t → t.ctl = s.ctl → Q stop t) :
    Ends sampleCancel Q s := by
  unfold Ends sampleCancel
  cases s.cancelIn <;> exact hQ _ _ rfl rfl

end parts

/-! ## The checks before the window (R182-R187) -/

/-- While the header is checked: the bus is as it was between operations, and the header's fields can be read. -/
structure HeaderRead (s : State) : Prop where
  wf : s.cfg.wf = true
  bus : s.busSel = s.streamOpen
  header : Readable .hdr 30 s

theorem ends_readHeader {s : State} (hw : s.cfg.wf = true) (hb : s.busSel = s.streamOpen) :
    Ends readHeader (fun _ t => HeaderRead t) s := by
  obtain ⟨-, -, -, -, hsize, -⟩ := wf_bounds hw
  simp only [readHeader, ends_bind, ends_look]
  refine ends_srcRead fun ans t ht _ hlen => ?_
  cases ans with
  | fail => exact ends_raise
  | short bs => exact ends_raise
  | ok bs =>
    have hbs : bs.length = t.cfg.headerSize := (hlen bs rfl).trans (congrArg _ ht.cfg.symm)
    refine ends_writeBuffer (readable_zero _) (by simp [bufferSize, hbs]) fun m k hread => ?_
    refine ⟨ht.cfg ▸ hw, ht.busSel.trans (hb.trans ht.streamOpen.symm), hread.le ?_⟩
    rw [hbs, ht.cfg]
    omega

section header
variable {s : State}

theorem ends_headerHalf {off : Nat} {Q : Half → State → Prop} (h : Readable .hdr 30 s) (ho : off + 1 < 30)
    (hQ : ∀ v, Q v s) : Ends (headerHalf off) Q s := by
  simp only [headerHalf, ends_bind]
  refine ends_readBufferByte h (by omega) fun _ => ?_
  refine ends_readBufferByte h ho fun _ => ?_
  exact hQ _

theorem ends_headerWord {off : Nat} {Q : Word → State → Prop} (h : Readable .hdr 30 s) (ho : off + 3 < 30)
    (hQ : ∀ v, Q v s) : Ends (headerWord off) Q s := by
  simp only [headerWord, ends_bind]
  refine ends_readBufferByte h (by omega) fun _ => ?_
  refine ends_readBufferByte h (by omega) fun _ => ?_
  refine ends_readBufferByte h (by omega) fun _ => ?_
  refine ends_readBufferByte h ho fun _ => ?_
  exact hQ _

theorem ends_checkSignature {Q : Unit → State → Prop} (h : Readable .hdr 30 s) (hQ : Q () s) :
    Ends checkSignature Q s := by
  simp only [checkSignature, ends_bind]
  refine ends_readBufferByte h (by omega) fun _ => ?_
  refine ends_readBufferByte h (by omega) fun _ => ?_
  exact ends_ite (fun _ => ends_raise) fun _ => hQ

/-- EXTRACT_FIELDS (R183): the source's size and depth are written. -/
theorem ends_extractFields {Q : Unit → State → Prop} (h : HeaderRead s)
    (hQ : ∀ t, HeaderRead t → .srcW ∈ t.decWritten → .srcH ∈ t.decWritten → .bpp ∈ t.decWritten → Q () t) :
    Ends extractFields Q s := by
  simp only [extractFields, ends_bind, ends_update]
  refine ends_headerWord h.header (by omega) fun _ => ?_
  refine ends_headerWord h.header (by omega) fun _ => ?_
  refine ends_headerHalf h.header (by omega) fun _ => ?_
  refine hQ _ ⟨h.wf, h.bus, h.header⟩ ?_ ?_ ?_ <;> simp [writeDec]

theorem ends_checkDepth {Q : Unit → State → Prop} (h : .bpp ∈ s.decWritten) (hQ : Q () s) : Ends checkDepth Q s := by
  simp only [checkDepth, ends_bind]
  exact ends_readDec h (ends_ite (fun _ => ends_raise) fun _ => hQ)

end header

/-- What the drawing of rows reads of the decoder's registers (R181, R186, R188): they are written, and the clipped width
lies within the panel and within the stored row. -/
structure RowRegs (c : Config) (written : List DecReg) (w size : Nat) : Prop where
  srcHWritten : .srcH ∈ written
  rowSizeWritten : .rowSize ∈ written
  wWritten : .w ∈ written
  inPanel : w ≤ c.panelW
  rowHolds : 3 * w ≤ size

/-- An image that passed every check, its window not yet opened (R181, R186, R187). -/
structure ImageChecked (s : State) : Prop where
  wf : s.cfg.wf = true
  bus : s.busSel = s.streamOpen
  regs : RowRegs s.cfg s.decWritten s.decW s.decRowSize
  hWritten : .h ∈ s.decWritten
  wPos : 1 ≤ s.decW
  hPos : 1 ≤ s.decH
  hInPanel : s.decH ≤ s.cfg.panelH

/-- A stored row holds its pixels (R55, R82). -/
theorem le_rowSize (w : Nat) : 3 * w ≤ rowSize w := by
  unfold rowSize
  omega

/-- The checks before the window (R181): each register is read after the step that writes it. -/
theorem ends_checkImage {s : State} (hw : s.cfg.wf = true) (hb : s.busSel = s.streamOpen) :
    Ends checkImage (fun _ t => ImageChecked t) s := by
  simp only [checkImage, ends_bind, ends_update]
  refine (ends_readHeader (s := setSeq .bmpHdr s) hw hb).mono fun _ t ht => ?_
  refine ends_checkSignature ht.header ?_
  refine ends_extractFields ⟨ht.wf, ht.bus, ht.header⟩ fun u hu hsw hsh hbpp => ?_
  refine ends_checkDepth hbpp ?_
  simp only [clipImage, checkSize, setRowSize, ends_bind, ends_update]
  refine ends_readDec hsw (ends_readDec hsh ?_)
  refine ends_readDec (by simp [writeDec]) (ends_readDec (by simp [writeDec]) ?_)
  refine ends_readDec (by simp [writeDec, hsw]) (ends_readDec (by simp [writeDec, hsh]) ?_)
  refine ends_ite (fun _ => ends_raise) fun hsize => ?_
  obtain ⟨hw0, hh0⟩ := not_or.1 hsize
  refine ends_readDec (by simp [writeDec, hsw]) ?_
  exact
    { wf := hu.wf
      bus := hu.bus
      regs :=
        { srcHWritten := by simp [writeDec, hsh]
          rowSizeWritten := by simp [writeDec]
          wWritten := by simp [writeDec]
          inPanel := Nat.min_le_right _ _
          rowHolds := (Nat.mul_le_mul_left 3 (Nat.min_le_left _ _)).trans (le_rowSize _) }
      hWritten := by simp [writeDec]
      wPos := Nat.pos_of_ne_zero hw0
      hPos := Nat.pos_of_ne_zero hh0
      hInPanel := Nat.min_le_right _ _ }

/-! ## The rows (R188-R192) -/

/-- Between two rows: the stream takes any bytes, and the registers of the rows are known. -/
structure RowsReady (s : State) : Prop where
  stream : CanAppend s
  regs : RowRegs s.cfg s.decWritten s.decW s.decRowSize

section rows
variable {s t : State}

theorem RowsReady.ports (h : RowsReady s) (k : OnlyPorts s t) (hs : CanAppend t) : RowsReady t := by
  refine ⟨hs, ?_⟩
  rw [k]
  exact h.regs

/-- An event that does not concern the controller leaves the stream as it is. -/
theorem RowsReady.event (h : RowsReady s) (k : OnlyPorts s t) (hc : t.ctl = s.ctl) : RowsReady t :=
  h.ports k ⟨k.cfg ▸ h.stream.wf, k.streamOpen.trans h.stream.isOpen, k.dc.trans h.stream.dataMode,
    h.stream.fits.congr hc k.cfg⟩

theorem RowsReady.setBuffer (h : RowsReady s) (b : Buffer) (m : List Host.Cell) (n : Nat) :
    RowsReady (setBuffer b m n s) := by
  obtain ⟨hw, ho, hd, hf⟩ := h.stream
  cases b <;> exact ⟨⟨hw, ho, hd, hf⟩, h.regs⟩

theorem setBuffer_decW (b : Buffer) (m : List Host.Cell) (n : Nat) (s : State) : (setBuffer b m n s).decW = s.decW := by
  cases b <;> rfl

/-- The row number is written at the start of a row (R181). -/
theorem RowsReady.startRow (h : RowsReady s) (r : Nat) :
    RowsReady (writeDec .row (fun s => { s with decRow := r }) (setSeq (.bmpRow r) s)) := by
  obtain ⟨hw, ho, hd, hf⟩ := h.stream
  obtain ⟨hsh, hrs, hww, hp, hr⟩ := h.regs
  exact ⟨⟨hw, ho, hd, hf⟩, .tail _ hsh, .tail _ hrs, .tail _ hww, hp, hr⟩

/-- READ_ROW (R188): the pixels of the row are in the input buffer. -/
theorem ends_readRow {r : Nat} (h : RowsReady s) :
    Ends (readRow r) (fun _ t => RowsReady t ∧ Readable .inbuf (3 * t.decW) t) s := by
  simp only [readRow, ends_bind, ends_look]
  refine ends_readDec h.regs.srcHWritten (ends_readDec h.regs.rowSizeWritten (ends_readDec h.regs.wWritten ?_))
  refine ends_srcRead fun ans t ht hctl hlen => ?_
  cases ans with
  | fail => exact ends_raise
  | short bs => exact ends_raise
  | ok bs =>
    have hrow := h.event ht hctl
    have hw : t.decW = s.decW := by rw [ht]
    have htake : (bs.take (3 * s.decW)).length = 3 * s.decW := by
      rw [List.length_take, hlen bs rfl, Nat.min_eq_left h.regs.rowHolds]
    have hp := hrow.regs.inPanel
    refine ends_writeBuffer (readable_zero _) (by simp only [htake, bufferSize]; omega) fun m k hread => ?_
    rw [htake, Nat.zero_add, ← hw] at hread
    refine ⟨hrow.setBuffer _ _ _, ?_⟩
    rwa [setBuffer_decW]

/-- While a row is converted (R189): its pixels wait in the input buffer, the first `i` are in the output buffer. -/
structure Converting (i : Nat) (s : State) : Prop where
  rows : RowsReady s
  input : Readable .inbuf (3 * s.decW) s
  output : Readable .outbuf (2 * i) s

theorem ends_convertPixelAt {i : Nat} (h : Converting i s) (hi : i < s.decW) :
    Ends (convertPixelAt i) (fun _ t => Converting (i + 1) t ∧ t.decW = s.decW) s := by
  simp only [convertPixelAt, ends_bind, ends_look]
  refine ends_readBufferByte h.input (by omega) fun _ => ?_
  refine ends_readBufferByte h.input (by omega) fun _ => ?_
  refine ends_readBufferByte h.input (by omega) fun _ => ?_
  have hp := h.rows.regs.inPanel
  refine ends_writeBuffer h.output (by simp only [be16Bytes, List.length_cons, List.length_nil, bufferSize]; omega)
    fun m k hread => ⟨⟨h.rows.setBuffer _ _ _, ?_, hread⟩, setBuffer_decW _ _ _ _⟩
  rw [setBuffer_decW]
  exact readable_other h.input nofun

theorem ends_convertPixels {n i : Nat} (h : Converting i s) (hn : i + n = s.decW) :
    Ends (convertPixels n i) (fun _ t => Converting t.decW t) s := by
  induction n generalizing i s with
  | zero =>
    obtain rfl : i = s.decW := hn
    exact h
  | succ n ih =>
    simp only [convertPixels, ends_bind]
    exact (ends_convertPixelAt h (by omega)).mono fun _ t ht => ih ht.1 (by omega)

theorem ends_convertRow (h : RowsReady s) (hin : Readable .inbuf (3 * s.decW) s) :
    Ends convertRow (fun _ t => Converting t.decW t) s := by
  simp only [convertRow, ends_bind]
  exact ends_readDec h.regs.wWritten (ends_convertPixels ⟨h, hin, readable_zero _⟩ (Nat.zero_add _))

theorem ends_handOff (h : Converting s.decW s) : Ends handOff (fun _ t => RowsReady t) s := by
  simp only [handOff, ends_bind]
  refine ends_readDec h.rows.regs.wWritten (ends_readBuffer h.output fun _ => ?_)
  exact (ends_append h.rows.stream).mono fun _ t ht => h.rows.ports ht.1 ht.2

theorem ends_doRow {r : Nat} (h : RowsReady s) : Ends (doRow r) (fun _ t => RowsReady t) s := by
  simp only [doRow, ends_bind, ends_update]
  refine (ends_readRow (h.startRow r)).mono fun _ t ht => ?_
  exact (ends_convertRow ht.1 ht.2).mono fun _ u hu => ends_handOff hu

theorem ends_cancelPoint {r : Nat} (h : RowsReady s) : Ends (cancelPoint r) (fun _ t => RowsReady t) s := by
  simp only [cancelPoint, ends_bind]
  exact ends_sampleCancel fun _ t ht hc => ends_ite (fun _ => ends_raise) fun _ => h.event ht hc

theorem ends_rowLoop {n r : Nat} (h : RowsReady s) : Ends (rowLoop n r) (fun _ t => RowsReady t) s := by
  induction n, r using rowLoop.induct generalizing s with
  | case1 r => exact h
  | case2 r => exact ends_doRow h
  | case3 n r ih =>
    simp only [rowLoop, ends_bind]
    exact (ends_doRow h).mono fun _ t ht => (ends_cancelPoint ht).mono fun _ u hu => ih hu

/-- The window of the clipped image and its rows (R181). -/
theorem ends_drawImage (h : ImageChecked s) : Ends drawImage (fun _ _ => True) s := by
  simp only [drawImage, ends_bind, ends_update]
  refine ends_readDec h.regs.wWritten (ends_readDec h.hWritten ?_)
  refine (ends_windowBody_origin (s := setSeq .bmpWin s) h.wf h.bus h.wPos h.regs.inPanel h.hPos h.hInPanel).mono ?_
  rintro - t ⟨ht, hstream⟩
  have hrows : RowsReady t := by
    refine ⟨hstream, ?_⟩
    rw [ht]
    exact h.regs
  exact (ends_rowLoop hrows).mono fun _ _ _ => trivial

/-! ## DECODE_BMP (R181) -/

theorem ends_openSource {hd : Byte} {Q : Unit → State → Prop}
    (hQ : ∀ t, t.cfg = s.cfg → t.busSel = s.busSel → t.streamOpen = s.streamOpen → Q () t) : Ends (openSource hd) Q s := by
  simp only [openSource, ends_bind, ends_update]
  refine ends_srcOpen fun ok t ht => ends_ite (fun _ => ?_) fun _ => ends_raise
  exact hQ _ ht.cfg ht.busSel ht.streamOpen

theorem ends_decodeBmpBody {hd : Byte} (hw : s.cfg.wf = true) (hb : s.busSel = s.streamOpen) :
    Ends (decodeBmpBody hd) (fun _ _ => True) s := by
  simp only [decodeBmpBody, ends_bind, ends_update]
  refine ends_requireReady fun _ => ends_openSource fun t hcfg hsel hopen => ?_
  refine (ends_checkImage (hcfg ▸ hw) (hsel.trans (hb.trans hopen.symm))).mono fun _ u hu => ?_
  exact (ends_drawImage hu).mono fun _ _ _ => trivial

end rows

end Sys2Proof.Proofs
end

section
/-! PROOFS. The statements of spec/00_scope.md. -/

namespace Sys2Proof.Proofs

open Sys2Proof.Machine Sys2Proof.Safety

/-- An open stream of a state that a host program reaches takes any bytes (R25, R52). -/
theorem canAppend_of_hostState {s : State} (h : HostState s) (hw : s.cfg.wf = true) (ho : s.streamOpen = true) :
    CanAppend s :=
  ⟨hw, ho, h.resting.streamInData ho, fun _ => h.streamWindow ho⟩

/-- Settles O15: by cases on the operation, whose body never faults. -/
theorem hostOperationsEnd : Obligations.HostOperationsEnd := by
  intro i s hs hw hi
  have hb : s.busSel = s.streamOpen := hs.resting.selectedIffStream
  cases i with
  | init => exact runOperation_next (ends_initBody hw hb)
  | setWindow x0 y0 x1 y1 => exact runOperation_next (ends_setWindowBody hw hb)
  | writePixels bytes => exact runOperation_next (ends_writePixelsBody (canAppend_of_hostState hs hw))
  | endWrite => exact runOperation_next ends_endWriteBody
  | fill color => exact runOperation_next (ends_fillBody hw hb)
  | convert r g b => exact runOperation_next (op := .convert) (src := none) ends_convertBody
  | decodeBmp h => exact runOperation_next (ends_decodeBmpBody hw hb)
  | _ => cases hi

/-- With a legal configuration and no construction asked for, a step runs what waits where the driver of the bus
admits it (R63). -/
theorem step_eq_runWaiting {s : State} (hn : s.newInstance = none) (hw : s.cfg.wf = true)
    (hport : ∀ w ∈ s.input.head?, s.busDriver.admits w = true) : step s = runWaiting s := by
  simp [step, hn, hw, (portRefusal_none_iff s).2 hport]

theorem runWaiting_instr {s : State} {i : Instr} {rest : List WireByte} (h : decode s.cfg s.input = .instr i rest) :
    runWaiting s = exec i (consume rest s) := by
  simp [runWaiting, fetch, h]

/-- Settles O6: the construction, the configuration and the port let the step through, and the decoder names the meaning. -/
theorem stepRunsDecoded : Obligations.StepRunsDecoded := by
  intro s i rest hn hw hport hdec
  calc step s = runWaiting s := step_eq_runWaiting hn hw hport
    _ = exec i (consume rest s) := runWaiting_instr hdec
    _ = exec i { s with input := rest } := rfl

end Sys2Proof.Proofs
end

section
/-! PROOFS. What every part of a host operation keeps, where it returns and where it raises (spec/10_state.md R20-R42):
the relation that all parts keep, a rule for each shared operation, and the frames. The rules hold in any state and for any
answers of the collaborator. -/

namespace Sys2Proof.Proofs

open Sys2Proof.Machine Sys2Proof.Safety

/-! ## How a part of an operation is left -/

/-- `x`, run at `s`, returns with `Q` or raises with `E` (R13); a fault of the model is not spoken of. -/
def Leaves {α : Type} (x : Op α) (Q : α → State → Prop) (E : StCode → State → Prop) (s : State) : Prop :=
  match x s with
  | .ok a t => Q a t
  | .error (.raise c _ _) t => E c t
  | .error (.fault _) _ => True

section rules
variable {α β : Type} {Q : α → State → Prop} {E : StCode → State → Prop} {s t : State}

theorem Leaves.of_ok {x : Op α} {a : α} (h : Leaves x Q E s) (hx : x s = .ok a t) : Q a t := by
  rwa [Leaves, hx] at h

theorem Leaves.of_raise {x : Op α} {c : StCode} {r : Option Reason} {d : Detail} (h : Leaves x Q E s)
    (hx : x s = .error (.raise c r d) t) : E c t := by
  rwa [Leaves, hx] at h

theorem Leaves.mono {x : Op α} {Q' : α → State → Prop} {E' : StCode → State → Prop} (h : Leaves x Q' E' s)
    (hQ : ∀ a t, Q' a t → Q a t) (hE : ∀ c t, E' c t → E c t) : Leaves x Q E s := by
  unfold Leaves at *
  split at h
  · exact hQ _ _ h
  · exact hE _ _ h
  · trivial

@[simp] theorem leaves_pure {a : α} : Leaves (pure a) Q E s ↔ Q a s := Iff.rfl

@[simp] theorem leaves_bind {x : Op β} {f : β → Op α} :
    Leaves (x >>= f) Q E s ↔ Leaves x (fun b t => Leaves (f b) Q E t) E s := by
  unfold Leaves
  rw [op_bind]
  rcases x s with _ | ⟨_ | _, _⟩ <;> rfl

@[simp] theorem leaves_update {f : State → State} {Q : Unit → State → Prop} :
    Leaves (update f) Q E s ↔ Q () (f s) := Iff.rfl

@[simp] theorem leaves_look {f : State → α} : Leaves (look f) Q E s ↔ Q (f s) s := Iff.rfl

@[simp] theorem leaves_raise {c : StCode} {r : Option Reason} {d : Detail} :
    Leaves (raise c r d) Q E s ↔ E c s := Iff.rfl

@[simp] theorem leaves_raiseTransfer {k : FrameKind} {b : Option Byte} {n : Nat} :
    Leaves (raiseTransfer k b n) Q E s ↔ E .transferError s := Iff.rfl

theorem leaves_ite {p : Prop} [Decidable p] {x y : Op α} (hx : p → Leaves x Q E s) (hy : ¬ p → Leaves y Q E s) :
    Leaves (if p then x else y) Q E s := by
  split
  · next h => exact hx h
  · next h => exact hy h

/-- The checks of R22 raise before anything has changed. -/
theorem leaves_requireReady {Q : Unit → State → Prop} (hQ : s.drvState = .ready → Q () s)
    (hE : E .illegalStateError s) : Leaves requireReady Q E s := by
  unfold Leaves requireReady
  cases hr : pixelLegal s.drvState with
  | true => exact hQ (of_decide_eq_true hr)
  | false => exact hE

theorem leaves_requireInitLegal {Q : Unit → State → Prop} (hQ : Q () s) (hE : E .illegalStateError s) :
    Leaves requireInitLegal Q E s := by
  unfold Leaves requireInitLegal
  cases initLegal s.drvState with
  | true => exact hQ
  | false => exact hE

theorem leaves_requireStream {Q : Unit → State → Prop} (hQ : s.streamOpen = true → Q () s)
    (hE : E .illegalStateError s) : Leaves requireStream Q E s := by
  unfold Leaves requireStream
  cases ho : s.streamOpen with
  | true => exact hQ ho
  | false => exact hE

theorem leaves_requireWindow {x0 y0 x1 y1 : Half} {Q : Unit → State → Prop}
    (hQ : windowInRange s.cfg x0 y0 x1 y1 = true → Q () s) (hE : E .windowRangeError s) :
    Leaves (requireWindow x0 y0 x1 y1) Q E s := by
  unfold Leaves requireWindow
  cases hr : windowInRange s.cfg x0 y0 x1 y1 with
  | true => exact hQ hr
  | false => exact hE

/-- A primitive that opens a frame goes on only where the bus is idle (R101). -/
theorem leaves_requireIdleBus {Q : Unit → State → Prop} (hQ : s.busSel = false → Q () s) :
    Leaves requireIdleBus Q E s := by
  unfold Leaves requireIdleBus
  cases hb : s.busSel with
  | true => trivial
  | false => exact hQ hb

end rules

/-! ## What every part keeps -/

/-- `dc` is the level the line was last driven to (R24). -/
def LineAgrees (s : State) : Prop := modeAfter s.cfg s.trace = s.dc

/-- The memories are in their canonical form. -/
def Formed (s : State) : Prop :=
  Memory.wf s.gram = true ∧ Memory.wf s.hdr = true ∧ Memory.wf s.inbuf = true ∧ Memory.wf s.outbuf = true

/-- The bus is held by an open stream alone, and then in data mode (R25). -/
def BusByStream (s : State) : Prop := s.busSel = s.streamOpen ∧ (s.streamOpen = true → s.dc = .data)

/-- What a part of the operation `i` keeps, inside a frame too. -/
structure Keeps (i : Instr) (s t : State) : Prop where
  cfg : t.cfg = s.cfg
  busDriver : t.busDriver = s.busDriver
  input : t.input = s.input
  trace : s.trace <:+ t.trace
  line : LineAgrees s → LineAgrees t
  formed : Formed s → Formed t
  resetHigh : s.rstLvl = .high → t.rstLvl = .high
  driver : i ≠ .init → t.drvState = s.drvState ∧ t.rstLvl = s.rstLvl
  decoder : (∀ h, i ≠ .decodeBmp h) → s.decSrcOpen = false → SameDecoder s t

/-- What a part of the operation `i` keeps that leaves no frame of its own open. -/
structure Settles (i : Instr) (s t : State) : Prop extends Keeps i s t where
  bus : BusByStream s → BusByStream t

theorem sameDecoder_refl (s : State) : SameDecoder s s := by simp [SameDecoder]

theorem sameDecoder_trans {s t u : State} (h : SameDecoder s t) (k : SameDecoder t u) : SameDecoder s u := by
  unfold SameDecoder at *
  grind

theorem sameDecoder_decSrcOpen {s t : State} (h : SameDecoder s t) : t.decSrcOpen = s.decSrcOpen := by
  unfold SameDecoder at h
  grind

section keeps
variable {i : Instr} {s t u : State}

theorem Keeps.refl (i : Instr) (s : State) : Keeps i s s :=
  ⟨rfl, rfl, rfl, List.suffix_rfl, id, id, id, fun _ => ⟨rfl, rfl⟩, fun _ _ => sameDecoder_refl s⟩

theorem Keeps.trans (h : Keeps i s t) (k : Keeps i t u) : Keeps i s u where
  cfg := k.cfg.trans h.cfg
  busDriver := k.busDriver.trans h.busDriver
  input := k.input.trans h.input
  trace := h.trace.trans k.trace
  line := k.line ∘ h.line
  formed := k.formed ∘ h.formed
  resetHigh := k.resetHigh ∘ h.resetHigh
  driver hi := ⟨(k.driver hi).1.trans (h.driver hi).1, (k.driver hi).2.trans (h.driver hi).2⟩
  decoder hi hs :=
    sameDecoder_trans (h.decoder hi hs) (k.decoder hi ((sameDecoder_decSrcOpen (h.decoder hi hs)).trans hs))

theorem Settles.refl (i : Instr) (s : State) : Settles i s s := ⟨.refl i s, id⟩

theorem Settles.trans (h : Settles i s t) (k : Settles i t u) : Settles i s u :=
  ⟨h.toKeeps.trans k.toKeeps, k.bus ∘ h.bus⟩

theorem Keeps.settles (h : Keeps i s t) (hb : t.busSel = s.busSel) (ho : t.streamOpen = s.streamOpen)
    (hd : t.dc = s.dc) : Settles i s t := by
  refine ⟨h, fun hs => ?_⟩
  rwa [BusByStream, hb, ho, hd]

end keeps

/-! ## Updates on the side of the bus and the ports -/

/-- `t` differs from `s` at most in who holds the bus, the sequencer, the status, the controller, GRAM, the trace, the
answers that wait and the count of free values; the command/data line is not driven. -/
structure BusSide (s t : State) : Prop where
  frame : t = { s with
    busSel := t.busSel, streamOpen := t.streamOpen, seq := t.seq, stCode := t.stCode, stInfo := t.stInfo
    result := t.result, ctl := t.ctl, gram := t.gram, gramEpoch := t.gramEpoch, trace := t.trace, claimIn := t.claimIn
    txIn := t.txIn, openIn := t.openIn, readIn := t.readIn, cancelIn := t.cancelIn, freeCtr := t.freeCtr }
  trace : s.trace <:+ t.trace
  mode : modeAfter s.cfg t.trace = modeAfter s.cfg s.trace
  gram : Memory.wf s.gram = true → Memory.wf t.gram = true

section busSide
variable {i : Instr} {s t : State}

theorem BusSide.keeps (h : BusSide s t) : Keeps i s t := by
  obtain ⟨hf, ht, hm, hg⟩ := h
  have hcfg : t.cfg = s.cfg := by rw [hf]
  have hdc : t.dc = s.dc := by rw [hf]
  refine ⟨hcfg, by rw [hf], by rw [hf], ht, fun hl => ?_, fun ⟨h1, h2, h3, h4⟩ => ?_, fun hr => ?_, fun _ => ?_,
    fun _ _ => ?_⟩
  · rw [LineAgrees, hcfg, hdc, hm]
    exact hl
  · refine ⟨hg h1, ?_⟩
    rw [hf]
    exact ⟨h2, h3, h4⟩
  · rw [hf]
    exact hr
  · rw [hf]
    exact ⟨rfl, rfl⟩
  · rw [hf]
    exact sameDecoder_refl s

theorem BusSide.settles (h : BusSide s t) (hb : t.busSel = s.busSel) (ho : t.streamOpen = s.streamOpen) :
    Settles i s t := h.keeps.settles hb ho (by rw [h.frame])

/-- What the controller alone does is on that side, if GRAM is left in canonical form. -/
theorem busSide_of_onlyController (h : OnlyController s t) (hg : Memory.wf s.gram = true → Memory.wf t.gram = true) :
    BusSide s t := by
  refine ⟨?_, ?_, ?_, hg⟩
  · rw [h]
  · rw [onlyController_trace h]
  · rw [onlyController_trace h]

theorem settles_of_onlyController (h : OnlyController s t) (hg : Memory.wf s.gram = true → Memory.wf t.gram = true) :
    Settles i s t :=
  (busSide_of_onlyController h hg).settles (onlyController_busSel h) (onlyController_streamOpen h)

theorem selectBus_busSide (s : State) : BusSide s (selectBus s) := ⟨rfl, List.suffix_cons _ _, rfl, id⟩

theorem releaseBus_busSide (s : State) : BusSide s (releaseBus s) := ⟨rfl, List.suffix_cons _ _, rfl, id⟩

theorem settles_waitFor (d : Delay) (s : State) : Settles i s (waitFor d s) :=
  BusSide.settles ⟨rfl, List.suffix_cons _ _, rfl, id⟩ rfl rfl

theorem settles_setSeq (q : Seq) (s : State) : Settles i s (setSeq q s) :=
  BusSide.settles ⟨rfl, List.suffix_rfl, rfl, id⟩ rfl rfl

theorem settles_returnOk (r : Option Half) (s : State) : Settles i s (returnOk r s) :=
  BusSide.settles ⟨rfl, List.suffix_rfl, rfl, id⟩ rfl rfl

theorem settles_reportStatus (info : StInfo) (c : StCode) (s : State) : Settles i s (reportStatus info c s) :=
  BusSide.settles ⟨rfl, List.suffix_rfl, rfl, id⟩ rfl rfl

theorem settles_freeWindowRegs (s : State) : Settles i s (freeWindowRegs s) :=
  settles_of_onlyController (freeWindowRegs_only s) id

theorem keeps_driveCmd (s : State) : Keeps i s (driveCmd s) :=
  ⟨rfl, rfl, rfl, List.suffix_cons _ _, fun _ => if_pos rfl, id, id, fun _ => ⟨rfl, rfl⟩, fun _ _ => sameDecoder_refl s⟩

theorem level_opposite_ne (l : Level) : l.opposite ≠ l := by cases l <;> nofun

theorem keeps_driveData (s : State) : Keeps i s (driveData s) :=
  ⟨rfl, rfl, rfl, List.suffix_cons _ _, fun _ => if_neg (level_opposite_ne _), id, id, fun _ => ⟨rfl, rfl⟩,
    fun _ _ => sameDecoder_refl s⟩

/-- CLOSE_STREAM releases the bus that the stream holds (R107). -/
theorem settles_closeStream (s : State) : Settles i s (closeStream s) := by
  rcases closeStream_cases s with ⟨-, e⟩ | ⟨ho, g, k, n, e⟩
  · rw [e]
    exact .refl i s
  · have hg : Memory.wf s.gram = true → Memory.wf (closeStream s).gram = true := by
      intro h
      simpa [closeStream, ho] using ctlHalfPixel_wf (s := releaseBus s) h
    have hside : BusSide s (closeStream s) := by
      refine ⟨?_, ?_, ?_, hg⟩
      · rw [e]
        rfl
      · rw [e]
        exact List.suffix_cons _ _
      · rw [e]
        rfl
    refine ⟨hside.keeps, fun _ => ?_⟩
    rw [e]
    exact ⟨rfl, nofun⟩

theorem settles_closeSource (s : State) : Settles i s (closeSource s) := by
  unfold closeSource
  split
  · next ho =>
    exact ⟨⟨rfl, rfl, rfl, List.suffix_cons _ _, id, id, id, fun _ => ⟨rfl, rfl⟩,
      fun _ hc => absurd ho (by simp [hc])⟩, id⟩
  · exact .refl i s

/-- The abort sequence (R216) settles, as the close of the stream and of the source do. -/
theorem settles_takeAbort (info : StInfo) (c : StCode) (s : State) : Settles i s (takeAbort info c s) := by
  unfold takeAbort
  split
  · exact settles_reportStatus info c s
  · refine ((settles_closeStream s).trans (settles_closeSource _)).trans ?_
    exact BusSide.settles ⟨rfl, List.suffix_rfl, rfl, id⟩ rfl rfl

end busSide

/-! ## Transfers (R12, R121) -/

theorem deliver_wf {b : Byte} {s t : State} (h : deliver b s = .ok t) (hs : Memory.wf s.gram = true) :
    Memory.wf t.gram = true := by
  unfold deliver at h
  split at h
  · injection h with h
    subst h
    exact ctlCommand_wf b hs
  · exact ctlData_wf hs h
  · simp only at h
    split at h
    · injection h with h
      subst h
      exact ctlCommand_wf b hs
    · exact ctlData_wf (s := { s with freeCtr := s.freeCtr + 1 }) hs h

theorem transferred_onlyPorts (b : Byte) (ok : Bool) (s : State) : OnlyPorts s (record (.tx b ok) (afterTx s)) :=
  (afterTx_onlyPorts s).trans rfl

theorem transferred_busSide (b : Byte) (ok : Bool) (s : State) : BusSide s (record (.tx b ok) (afterTx s)) := by
  rw [afterTx_eq s]
  exact ⟨rfl, List.suffix_cons _ _, rfl, id⟩

/-- `Tx(b)` is an event of the ports (R12): the lines and the stream stay. -/
theorem leaves_tx {b : Byte} {Q : Bool → State → Prop} {E : StCode → State → Prop} (i : Instr) {s : State}
    (hQ : ∀ ok t, Keeps i s t → OnlyPorts s t → Q ok t) : Leaves (tx b) Q E s := by
  unfold Leaves tx transfer
  cases (nextTx s).isReceived with
  | false => exact hQ _ _ (transferred_busSide b _ s).keeps (transferred_onlyPorts b _ s)
  | true =>
    cases hd : deliver b (record (.tx b (nextTx s).isOk) (afterTx s)) with
    | error f => simp
    | ok t =>
      have hside := busSide_of_onlyController (deliver_only hd) (deliver_wf hd)
      simpa [hd] using hQ _ t ((transferred_busSide b _ s).keeps.trans hside.keeps)
        ((transferred_onlyPorts b _ s).trans (onlyPorts_of_onlyController (deliver_only hd)))

/-- The bytes of a frame or stream (R103, R106): where one fails, what they reached is closed. -/
theorem leaves_sendBytes {frame : FrameKind} {close : State → State} {bs : List Byte} {i : Nat} {op : Instr}
    {Q : Unit → State → Prop} {E : StCode → State → Prop} {s : State}
    (hQ : ∀ t, Keeps op s t → OnlyPorts s t → Q () t)
    (hE : ∀ t, Keeps op s t → OnlyPorts s t → E .transferError (close t)) :
    Leaves (sendBytes frame close i bs) Q E s := by
  induction bs generalizing i s with
  | nil => exact hQ s (.refl op s) rfl
  | cons b bs ih =>
    simp only [sendBytes, leaves_bind]
    refine leaves_tx op fun ok t hk hp => leaves_ite (fun _ => ?_) fun _ => ?_
    · exact ih (fun u k p => hQ u (hk.trans k) (hp.trans p)) fun u k p => hE u (hk.trans k) (hp.trans p)
    · simp only [leaves_bind, leaves_update, leaves_raiseTransfer]
      exact hE t hk hp

/-! ## Parts that settle -/

/-- `x` settles from every state, as a part of the operation `i`, and where it raises, `E` holds too. -/
def Within {α : Type} (E : StCode → State → Prop) (i : Instr) (x : Op α) : Prop :=
  ∀ s, Leaves x (fun _ t => Settles i s t) (fun c t => E c t ∧ Settles i s t) s

section within
variable {α β : Type} {E : StCode → State → Prop} {i : Instr}

theorem within_pure (a : α) : Within E i (pure a) := fun s => .refl i s

theorem within_look (f : State → α) : Within E i (look f) := fun s => .refl i s

theorem within_update {f : State → State} (h : ∀ s, Settles i s (f s)) : Within E i (update f) := h

theorem within_raise {c : StCode} {r : Option Reason} {d : Detail} (h : ∀ t, E c t) :
    Within (α := α) E i (raise c r d) := fun s => ⟨h s, .refl i s⟩

theorem within_faultWith (f : Fault) : Within (α := α) E i (faultWith f) := fun _ => trivial

theorem Within.bind {x : Op β} {f : β → Op α} (hx : Within E i x) (hf : ∀ b, Within E i (f b)) :
    Within E i (x >>= f) := by
  intro s
  rw [leaves_bind]
  refine (hx s).mono (fun b t ht => ?_) fun c t h => h
  exact (hf b t).mono (fun _ u hu => ht.trans hu) fun _ u hu => ⟨hu.1, ht.trans hu.2⟩

theorem within_ite {p : Prop} [Decidable p] {x y : Op α} (hx : Within E i x) (hy : Within E i y) :
    Within E i (if p then x else y) := by
  split
  · exact hx
  · exact hy

end within

/-! ## Frames (R102-R106) -/

section frames
variable {E : StCode → State → Prop} {i : Instr} {s t : State}

/-- A frame that found the bus idle and releases it settles (R101). -/
theorem settles_released (hb : s.busSel = false) (hk : Keeps i s t) (ho : t.streamOpen = s.streamOpen) :
    Settles i s (releaseBus t) := by
  refine ⟨hk.trans (releaseBus_busSide t).keeps, fun hs => ?_⟩
  have hclosed : t.streamOpen = false := ho.trans (hs.1.symm.trans hb)
  exact ⟨hclosed.symm, fun h => absurd h (by simp [hclosed])⟩

theorem keeps_openCmd (s : State) : Keeps i s (selectBus (driveCmd s)) :=
  (keeps_driveCmd s).trans (selectBus_busSide _).keeps

theorem keeps_openData (s : State) : Keeps i s (selectBus (driveData s)) :=
  (keeps_driveData s).trans (selectBus_busSide _).keeps

/-- CMD_FRAME (R102). -/
theorem within_cmdFrame (hE : ∀ t, E .transferError t) (c : Byte) : Within E i (cmdFrame c) := by
  intro s
  simp only [cmdFrame, leaves_bind, leaves_update]
  refine leaves_requireIdleBus fun hb => leaves_tx i fun ok t hk hp => ?_
  have hset : Settles i s (releaseBus t) := settles_released hb ((keeps_openCmd s).trans hk) hp.streamOpen
  exact leaves_ite (fun _ => hset) fun _ => ⟨hE _, hset⟩

/-- DATA_FRAME (R103). -/
theorem within_dataFrame (hE : ∀ t, E .transferError t) (bs : List Byte) : Within E i (dataFrame bs) := by
  intro s
  simp only [dataFrame, leaves_bind]
  refine leaves_requireIdleBus fun hb => leaves_ite (fun _ => trivial) fun _ => ?_
  simp only [leaves_bind, leaves_update]
  have hset : ∀ t, Keeps i (selectBus (driveData s)) t → OnlyPorts (selectBus (driveData s)) t →
      Settles i s (releaseBus t) :=
    fun t hk hp => settles_released hb ((keeps_openData s).trans hk) hp.streamOpen
  exact leaves_sendBytes hset fun t hk hp => ⟨hE _, hset t hk hp⟩

/-- CMD_WITH_PAYLOAD (R104). -/
theorem within_cmdWithPayload (hE : ∀ t, E .transferError t) (c : Byte) (bs : List Byte) :
    Within E i (cmdWithPayload c bs) :=
  (within_cmdFrame hE c).bind fun _ => within_ite (within_pure _) (within_dataFrame hE bs)

/-- OPEN_STREAM (R105): the stream holds the bus, in data mode. -/
theorem within_openStream (hE : ∀ t, E .transferError t) : Within E i openStream := by
  intro s
  simp only [openStream, leaves_bind, leaves_look, leaves_update]
  refine leaves_requireIdleBus fun hb => leaves_tx i fun ok t hk hp => leaves_ite (fun _ => ?_) fun _ => ?_
  · simp only [leaves_bind, leaves_update]
    have hopen : Keeps i (driveData t) { driveData t with streamOpen := true } :=
      BusSide.keeps ⟨rfl, List.suffix_rfl, rfl, id⟩
    exact ⟨(((keeps_openCmd s).trans hk).trans (keeps_driveData t)).trans hopen, fun _ => ⟨hp.busSel, fun _ => rfl⟩⟩
  · simp only [leaves_bind, leaves_update, leaves_raiseTransfer]
    exact ⟨hE _, settles_released hb ((keeps_openCmd s).trans hk) hp.streamOpen⟩

/-- APPEND (R106): a failing byte closes the stream. -/
theorem within_append (hE : ∀ t, E .transferError t) (bs : List Byte) : Within E i (append bs) := by
  intro s
  simp only [append, leaves_bind, leaves_look]
  refine leaves_ite (fun _ => ?_) fun _ => trivial
  have hset : ∀ t, Keeps i s t → OnlyPorts s t → Settles i s t :=
    fun t hk hp => hk.settles hp.busSel hp.streamOpen hp.dc
  exact leaves_sendBytes hset fun t hk hp => ⟨hE _, (hset t hk hp).trans (settles_closeStream t)⟩

end frames

end Sys2Proof.Proofs
end

section
/-! PROOFS. Each host operation settles (spec/42_driver_ops.md, 43_pixel_codec.md, 44_bitmap_decoder.md), and how it can
raise: before anything has changed, or into the abort sequence (R214, R216). -/

namespace Sys2Proof.Proofs

open Sys2Proof.Machine Sys2Proof.Safety

/-! ## How parts raise -/

/-- The raises that the abort sequence ends (R216): every code but the two that change the status alone (R88, R214). -/
def Aborting (c : StCode) (_ : State) : Prop := c.statusOnly = false

/-- The raises of a frame (R102, R103). -/
def TransferFailed (c : StCode) (_ : State) : Prop := c = .transferError

/-- The raises of INIT once it has begun (R141). -/
def InitBroken (c : StCode) (t : State) : Prop := c = .initError ∧ t.drvState = .failed

theorem aborting_transferError (t : State) : Aborting .transferError t := rfl

/-! ## The window, the stream and FILL (R143, R148) -/

section driver
variable {i : Instr}

theorem within_windowFrames (x0 y0 x1 y1 : Half) : Within Aborting i (windowFrames x0 y0 x1 y1) :=
  (within_look _).bind fun _ => (within_look _).bind fun _ =>
    (within_cmdWithPayload aborting_transferError _ _).bind fun _ =>
      (within_cmdWithPayload aborting_transferError _ _).bind fun _ => within_openStream aborting_transferError

theorem within_windowBody (x0 y0 x1 y1 : Half) : Within Aborting i (windowBody x0 y0 x1 y1) := by
  intro s
  have hframes := within_windowFrames (i := i) x0 y0 x1 y1 (closeStream s)
  have hclose : Settles i s (closeStream s) := settles_closeStream s
  unfold Leaves windowBody
  unfold Leaves at hframes
  rcases hf : windowFrames x0 y0 x1 y1 (closeStream s) with ⟨u, t⟩ | ⟨⟨c, r, d⟩ | f, t⟩
  · rw [hf] at hframes
    exact hclose.trans hframes
  · rw [hf] at hframes
    exact ⟨hframes.1, (hclose.trans hframes.2).trans (settles_freeWindowRegs t)⟩
  · trivial

theorem within_fillLoop (color : Half) (total fuel sent : Nat) :
    Within Aborting i (fillLoop color total fuel sent) := by
  induction fuel generalizing sent with
  | zero => exact within_ite (within_faultWith _) (within_pure _)
  | succ fuel ih =>
    refine within_ite ?_ (within_pure _)
    exact (within_update (settles_setSeq _)).bind fun _ => (within_look _).bind fun _ =>
      (within_append aborting_transferError _).bind fun _ => ih _

end driver

/-! ## INIT (R141) -/

theorem settles_drvState (d : DrvState) (s : State) : Settles .init s { s with drvState := d } :=
  ⟨⟨rfl, rfl, rfl, List.suffix_rfl, id, id, id, fun h => absurd rfl h, fun _ _ => sameDecoder_refl s⟩, id⟩

theorem settles_initFailed (s : State) : Settles .init s (initFailed s) :=
  (settles_drvState .failed s).trans (settles_of_onlyController (freeController_only _) fun _ => rfl)

/-- RESET_PULSE at once (R108): the reset line is high again, and the controller has been reset. -/
theorem resetPulse_eq (s : State) : resetPulse s =
    { s with
      trace := [.wait .rstHigh, .pinRst .high, .wait .rstLow, .pinRst .low] ++ s.trace, rstLvl := .high
      ctl := Ctl.afterReset s.freeCtr, gram := [], gramEpoch := s.freeCtr, freeCtr := s.freeCtr + 1 } := rfl

theorem settles_resetPulse (s : State) : Settles .init s (resetPulse s) := by
  rw [resetPulse_eq]
  exact ⟨⟨rfl, rfl, rfl, List.suffix_append _ _, id, fun h => ⟨rfl, h.2⟩, fun _ => rfl, fun h => absurd rfl h,
    fun _ _ => sameDecoder_refl s⟩, id⟩

theorem settles_initPulse (s : State) : Settles .init s (initPulse s) := by
  unfold initPulse
  split
  · exact (settles_setSeq .initS1 s).trans (settles_resetPulse _)
  · exact .refl .init s

/-- A step of INIT fails into `Failed` where its body fails in a transfer (R141, R215). -/
theorem within_initStep {body : Op Unit} (h : Within TransferFailed .init body) (n : Nat) (q : Seq) :
    Within InitBroken .init (initStep n q body) := by
  intro s
  have hbody := h (setSeq q s)
  have hseq : Settles .init s (setSeq q s) := settles_setSeq q s
  unfold Leaves initStep
  unfold Leaves at hbody
  rcases hb : body (setSeq q s) with ⟨u, t⟩ | ⟨⟨c, r, d⟩ | f, t⟩
  · rw [hb] at hbody
    exact hseq.trans hbody
  · rw [hb] at hbody
    obtain ⟨rfl, ht⟩ := hbody
    exact ⟨⟨rfl, rfl⟩, (hseq.trans ht).trans (settles_initFailed t)⟩
  · trivial

theorem within_commandThenSettle (code : Config → Byte) (payload : Config → List Byte) (d : Delay) :
    Within TransferFailed .init (commandThenSettle code payload d) :=
  (within_look _).bind fun _ => (within_look _).bind fun _ =>
    (within_cmdWithPayload (fun _ => rfl) _ _).bind fun _ => within_update (settles_waitFor d)

theorem within_initSequence : Within InitBroken .init initSequence :=
  (within_initStep (within_commandThenSettle _ _ _) _ _).bind fun _ =>
    (within_update (settles_drvState _)).bind fun _ =>
      (within_initStep (within_commandThenSettle _ _ _) _ _).bind fun _ =>
        (within_initStep (within_commandThenSettle _ _ _) _ _).bind fun _ =>
          (within_initStep (within_commandThenSettle _ _ _) _ _).bind fun _ =>
            within_initStep (within_commandThenSettle _ _ _) _ _

theorem within_busClaim {E : StCode → State → Prop} {i : Instr} : Within E i busClaim := by
  intro s
  unfold Leaves busClaim
  cases s.claimIn <;> exact BusSide.settles ⟨rfl, List.suffix_cons _ _, rfl, id⟩ rfl rfl

/-- A refused claim fails into `Failed` (R141). -/
theorem within_initClaim : Within InitBroken .init initClaim := by
  refine (within_update (settles_setSeq _)).bind fun _ => within_busClaim.bind fun ok => within_ite (within_pure _) ?_
  intro s
  simp only [leaves_bind, leaves_update, leaves_raise]
  exact ⟨⟨rfl, rfl⟩, settles_initFailed s⟩

/-! ## DECODE_BMP (R181) -/

section decode
variable {E : StCode → State → Prop} {i : Instr} {h : Byte}

/-- A read that changes nothing settles: it answers, or stops at a fault of the model. -/
theorem within_readDec {α : Type} (r : DecReg) (f : State → α) : Within E i (readDec r f) := by
  intro s
  unfold Leaves readDec
  by_cases hr : r ∈ s.decWritten
  · simpa [hr] using Settles.refl i s
  · simp [hr]

theorem within_readBufferByte (b : Buffer) (n : Nat) : Within E i (readBufferByte b n) := by
  intro s
  unfold Leaves readBufferByte
  by_cases hn : n < bufferWritten s b
  · cases hv : memRead (bufferCells s b) n with
    | some v => simpa [hn, hv] using Settles.refl i s
    | none => simp [hn]
  · simp [hn]

theorem within_readBuffer (b : Buffer) (n m : Nat) : Within E i (readBuffer b n m) := by
  intro s
  unfold Leaves readBuffer
  by_cases hn : n + m ≤ max n (bufferWritten s b)
  · cases hv : memReadBytes (bufferCells s b) n m with
    | ok bytes => simpa [hn, hv] using Settles.refl i s
    | error a => simp [hn]
  · simp [hn]

/-- `t` differs from `s` at most in the decoder registers and buffers (R29-R31), whose canonical form is kept. -/
structure DecoderSide (s t : State) : Prop where
  frame : t = { s with
    decSrcW := t.decSrcW, decSrcH := t.decSrcH, decBpp := t.decBpp, decW := t.decW, decH := t.decH
    decRowSize := t.decRowSize, decRow := t.decRow, decSrcOpen := t.decSrcOpen, decWritten := t.decWritten
    hdr := t.hdr, inbuf := t.inbuf, outbuf := t.outbuf, hdrWritten := t.hdrWritten, inbufWritten := t.inbufWritten
    outbufWritten := t.outbufWritten }
  formed : Formed s → Formed t

/-- DECODE_BMP alone may write there (R29, R30). -/
theorem DecoderSide.settles {s t : State} (hst : DecoderSide s t) : Settles (.decodeBmp h) s t := by
  obtain ⟨hf, hform⟩ := hst
  have htrace : t.trace = s.trace := by rw [hf]
  have hline : LineAgrees s → LineAgrees t := by
    intro hl
    rw [hf]
    exact hl
  have hkeeps : Keeps (.decodeBmp h) s t :=
    { cfg := by rw [hf]
      busDriver := by rw [hf]
      input := by rw [hf]
      trace := htrace ▸ List.suffix_rfl
      line := hline
      formed := hform
      resetHigh := fun hr => by rw [hf]; exact hr
      driver := fun _ => by rw [hf]; exact ⟨rfl, rfl⟩
      decoder := fun hi => absurd rfl (hi h) }
  exact hkeeps.settles (by rw [hf]) (by rw [hf]) (by rw [hf])

/-- The start of the decoder's part of DECODE_BMP (R181). -/
theorem settles_startDecode (s : State) : Settles (.decodeBmp h) s (startDecode { s with decSrcOpen := true }) :=
  DecoderSide.settles ⟨rfl, id⟩

theorem within_writeBuffer (b : Buffer) (n : Nat) (bytes : List Byte) :
    Within E (.decodeBmp h) (writeBuffer b n bytes) := by
  intro s
  by_cases hn : n + bytes.length ≤ bufferSize s.cfg b
  · rw [Leaves, writeBuffer_ok hn]
    cases b with
    | hdr => exact DecoderSide.settles ⟨rfl, fun ⟨hg, hh, hi, ho⟩ => ⟨hg, memWriteBytes_wf _ _ hh, hi, ho⟩⟩
    | inbuf => exact DecoderSide.settles ⟨rfl, fun ⟨hg, hh, hi, ho⟩ => ⟨hg, hh, memWriteBytes_wf _ _ hi, ho⟩⟩
    | outbuf => exact DecoderSide.settles ⟨rfl, fun ⟨hg, hh, hi, ho⟩ => ⟨hg, hh, hi, memWriteBytes_wf _ _ ho⟩⟩
  · simp [Leaves, writeBuffer, hn]

/-- A write of decoder registers (R29). -/
theorem within_writeDec {r : DecReg} {f : State → State} (hf : ∀ s, DecoderSide s (writeDec r f s)) :
    Within E (.decodeBmp h) (update (writeDec r f)) := within_update fun s => (hf s).settles

theorem within_srcOpen (hd : Byte) : Within E i (srcOpen hd) := by
  intro s
  unfold Leaves srcOpen
  cases s.openIn <;> exact BusSide.settles ⟨rfl, List.suffix_cons _ _, rfl, id⟩ rfl rfl

theorem within_srcRead (off n : Nat) : Within E i (srcRead off n) := by
  intro s
  unfold Leaves srcRead
  cases s.readIn <;> exact BusSide.settles ⟨rfl, List.suffix_cons _ _, rfl, id⟩ rfl rfl

theorem within_sampleCancel : Within E i sampleCancel := by
  intro s
  unfold Leaves sampleCancel
  cases s.cancelIn <;> exact BusSide.settles ⟨rfl, List.suffix_rfl, rfl, id⟩ rfl rfl

theorem within_openSource (hd : Byte) : Within Aborting (.decodeBmp h) (openSource hd) :=
  (within_update (settles_setSeq _)).bind fun _ => (within_srcOpen hd).bind fun _ =>
    within_ite (within_update settles_startDecode) (within_raise fun _ => rfl)

theorem within_readHeader : Within Aborting (.decodeBmp h) readHeader := by
  refine (within_look _).bind fun n => (within_srcRead 0 n).bind fun ans => ?_
  cases ans with
  | fail => exact within_raise fun _ => rfl
  | short bs => exact within_raise fun _ => rfl
  | ok bs => exact within_writeBuffer _ _ _

theorem within_checkSignature : Within Aborting i checkSignature :=
  (within_readBufferByte _ _).bind fun _ => (within_readBufferByte _ _).bind fun _ =>
    within_ite (within_raise fun _ => rfl) (within_pure _)

theorem within_headerWord (off : Nat) : Within E i (headerWord off) :=
  (within_readBufferByte _ _).bind fun _ => (within_readBufferByte _ _).bind fun _ =>
    (within_readBufferByte _ _).bind fun _ => (within_readBufferByte _ _).bind fun _ => within_pure _

theorem within_headerHalf (off : Nat) : Within E i (headerHalf off) :=
  (within_readBufferByte _ _).bind fun _ => (within_readBufferByte _ _).bind fun _ => within_pure _

theorem within_extractFields : Within E (.decodeBmp h) extractFields :=
  (within_headerWord _).bind fun _ => .bind (within_writeDec fun _ => ⟨rfl, id⟩) fun _ =>
    (within_headerWord _).bind fun _ => .bind (within_writeDec fun _ => ⟨rfl, id⟩) fun _ =>
      (within_headerHalf _).bind fun _ => within_writeDec fun _ => ⟨rfl, id⟩

theorem within_checkDepth : Within Aborting i checkDepth :=
  (within_readDec _ _).bind fun _ => within_ite (within_raise fun _ => rfl) (within_pure _)

theorem within_clipImage : Within E (.decodeBmp h) clipImage :=
  (within_readDec _ _).bind fun _ => (within_readDec _ _).bind fun _ =>
    .bind (within_writeDec fun _ => ⟨rfl, id⟩) fun _ => within_writeDec fun _ => ⟨rfl, id⟩

theorem within_checkSize : Within Aborting i checkSize :=
  (within_readDec _ _).bind fun _ => (within_readDec _ _).bind fun _ =>
    (within_readDec _ _).bind fun _ => (within_readDec _ _).bind fun _ =>
      within_ite (within_raise fun _ => rfl) (within_pure _)

theorem within_setRowSize : Within E (.decodeBmp h) setRowSize :=
  (within_readDec _ _).bind fun _ => within_writeDec fun _ => ⟨rfl, id⟩

theorem within_checkImage : Within Aborting (.decodeBmp h) checkImage :=
  (within_update (settles_setSeq _)).bind fun _ => within_readHeader.bind fun _ =>
    (within_update (settles_setSeq _)).bind fun _ => within_checkSignature.bind fun _ =>
      within_extractFields.bind fun _ => within_checkDepth.bind fun _ => within_clipImage.bind fun _ =>
        within_checkSize.bind fun _ => within_setRowSize

theorem within_readRow (r : Nat) : Within Aborting (.decodeBmp h) (readRow r) := by
  refine (within_readDec _ _).bind fun _ => (within_readDec _ _).bind fun _ => (within_readDec _ _).bind fun _ =>
    (within_look _).bind fun _ => (within_srcRead _ _).bind fun ans => ?_
  cases ans with
  | fail => exact within_raise fun _ => rfl
  | short bs => exact within_raise fun _ => rfl
  | ok bs => exact within_writeBuffer _ _ _

theorem within_convertPixels (n k : Nat) : Within E (.decodeBmp h) (convertPixels n k) := by
  induction n generalizing k with
  | zero => exact within_pure _
  | succ n ih =>
    have hpixel : Within E (.decodeBmp h) (convertPixelAt k) :=
      (within_readBufferByte _ _).bind fun _ => (within_readBufferByte _ _).bind fun _ =>
        (within_readBufferByte _ _).bind fun _ => (within_look _).bind fun _ => within_writeBuffer _ _ _
    exact hpixel.bind fun _ => ih _

theorem within_handOff : Within Aborting i handOff :=
  (within_readDec _ _).bind fun _ => (within_readBuffer _ _ _).bind fun _ => within_append aborting_transferError _

theorem within_doRow (r : Nat) : Within Aborting (.decodeBmp h) (doRow r) :=
  (within_update (settles_setSeq _)).bind fun _ =>
    .bind (within_writeDec fun _ => ⟨rfl, id⟩) fun _ => (within_readRow r).bind fun _ =>
      ((within_readDec _ _).bind fun _ => within_convertPixels _ _).bind fun _ => within_handOff

theorem within_cancelPoint (r : Nat) : Within Aborting i (cancelPoint r) :=
  within_sampleCancel.bind fun _ => within_ite (within_raise fun _ => rfl) (within_pure _)

theorem within_rowLoop (n r : Nat) : Within Aborting (.decodeBmp h) (rowLoop n r) := by
  induction n, r using rowLoop.induct with
  | case1 r => exact within_pure _
  | case2 r => exact within_doRow r
  | case3 n r ih => exact (within_doRow r).bind fun _ => (within_cancelPoint r).bind fun _ => ih

theorem within_drawImage : Within Aborting (.decodeBmp h) drawImage :=
  (within_update (settles_setSeq _)).bind fun _ => (within_readDec _ _).bind fun _ =>
    (within_readDec _ _).bind fun _ => (within_windowBody _ _ _ _).bind fun _ => within_rowLoop _ _

end decode

/-! ## Whole operations -/

/-- How the body of an operation is left: it settles, or it raises at once with nothing changed (R214), or it raises into
the abort sequence with `E`. -/
def Behaves (E : StCode → State → Prop) (i : Instr) (body : Op (Option Half)) (s : State) : Prop :=
  Leaves body (fun _ t => Settles i s t)
    (fun c t => (c.statusOnly = true ∧ t = s) ∨ (c.statusOnly = false ∧ E c t ∧ Settles i s t)) s

section bodies
variable {E : StCode → State → Prop} {i : Instr} {s : State}

theorem Within.behaves {body : Op (Option Half)} (h : Within E i body) (hE : ∀ c t, E c t → c.statusOnly = false) :
    Behaves E i body s :=
  (h s).mono (fun _ _ h => h) fun c t h => .inr ⟨hE c t h.1, h⟩

/-- An operation that needs `Ready` (R22, R140) and then does `x`. -/
theorem behaves_requireReady {x : Op (Option Half)} (h : Behaves E i x s) :
    Behaves E i (requireReady >>= fun _ => x) s := by
  rw [Behaves, leaves_bind]
  exact leaves_requireReady (fun _ => h) (.inl ⟨rfl, rfl⟩)

theorem behaves_pixelBody {x : Op (Option Half)} (h : Within Aborting i x) :
    Behaves Aborting i (requireReady >>= fun _ => x) s := behaves_requireReady (h.behaves fun _ _ h => h)

theorem behaves_requireInitLegal {x : Op (Option Half)} (h : Within InitBroken .init x) :
    Behaves InitBroken .init (requireInitLegal >>= fun _ => x) s := by
  rw [Behaves, leaves_bind]
  exact leaves_requireInitLegal (h.behaves fun _ _ h => h.1 ▸ rfl) (.inl ⟨rfl, rfl⟩)

theorem behaves_initBody : Behaves InitBroken .init initBody s :=
  behaves_requireInitLegal ((within_update settles_closeStream).bind fun _ => within_initClaim.bind fun _ =>
    (within_update (settles_drvState _)).bind fun _ => (within_update settles_initPulse).bind fun _ =>
      within_initSequence.bind fun _ => (within_update (settles_drvState _)).bind fun _ => within_pure _)

theorem behaves_setWindowBody (x0 y0 x1 y1 : Half) : Behaves Aborting i (setWindowBody x0 y0 x1 y1) s := by
  refine behaves_pixelBody (.bind (fun s => ?_) fun _ => (within_windowBody _ _ _ _).bind fun _ => within_pure _)
  exact leaves_requireWindow (fun _ => .refl i s) ⟨rfl, .refl i s⟩

theorem behaves_writePixelsBody (bytes : List Byte) : Behaves Aborting i (writePixelsBody bytes) s := by
  have happend : Within (α := Option Half) Aborting i (append bytes >>= fun _ => pure none) :=
    (within_append aborting_transferError bytes).bind fun _ => within_pure _
  refine behaves_requireReady ?_
  rw [Behaves, leaves_bind]
  exact leaves_requireStream (fun _ => happend.behaves fun _ _ h => h) (.inl ⟨rfl, rfl⟩)

theorem behaves_endWriteBody : Behaves Aborting i endWriteBody s :=
  behaves_pixelBody ((within_update settles_closeStream).bind fun _ => within_pure _)

theorem behaves_fillBody (color : Half) : Behaves Aborting i (fillBody color) s :=
  behaves_pixelBody ((within_update (settles_setSeq _)).bind fun _ => (within_look _).bind fun _ =>
    (within_look _).bind fun _ => (within_windowBody _ _ _ _).bind fun _ => (within_look _).bind fun _ =>
      (within_fillLoop _ _ _ _).bind fun _ => (within_update (settles_setSeq _)).bind fun _ =>
        (within_update settles_closeStream).bind fun _ => within_pure _)

theorem behaves_convertBody (r g b : Byte) : Behaves Aborting i (convertBody r g b) s :=
  Within.behaves ((within_look _).bind fun _ => within_pure _) fun _ _ h => h

theorem behaves_decodeBmpBody (h : Byte) : Behaves Aborting (.decodeBmp h) (decodeBmpBody h) s :=
  behaves_pixelBody ((within_openSource h).bind fun _ => within_checkImage.bind fun _ => within_drawImage.bind fun _ =>
    (within_update (settles_setSeq _)).bind fun _ => (within_update settles_closeStream).bind fun _ =>
      (within_update settles_closeSource).bind fun _ => within_pure _)

end bodies

/-- An operation whose body is left so settles as a whole (R13, R216). -/
theorem settles_runOperation {E : StCode → State → Prop} {i : Instr} {op : OpName} {src : Option Byte}
    {body : Op (Option Half)} {s t : State} (h : Behaves E i body s) (hrun : runOperation op src body s = .next t) :
    Settles i s t := by
  rcases runOperation_cases op src body s with ⟨r, u, hb, e⟩ | ⟨c, rs, d, u, hb, e⟩ | ⟨f, u, hb, e⟩
  · obtain rfl : returnOk r u = t := by simpa [hrun] using e.symm
    exact (h.of_ok hb).trans (settles_returnOk r u)
  · obtain rfl : takeAbort ⟨some op, src, rs, d⟩ c u = t := by simpa [hrun] using e.symm
    rcases h.of_raise hb with ⟨-, rfl⟩ | ⟨-, -, hu⟩
    · exact settles_takeAbort _ c u
    · exact hu.trans (settles_takeAbort _ c u)
  · simp [hrun] at e

/-- Every host operation settles (R7, R13). -/
theorem settles_exec {i : Instr} {s t : State} (hi : isHostOp i = true) (h : exec i s = .next t) : Settles i s t := by
  cases i with
  | init => exact settles_runOperation behaves_initBody h
  | setWindow x0 y0 x1 y1 => exact settles_runOperation (behaves_setWindowBody x0 y0 x1 y1) h
  | writePixels bytes => exact settles_runOperation (behaves_writePixelsBody bytes) h
  | endWrite => exact settles_runOperation behaves_endWriteBody h
  | fill color => exact settles_runOperation (behaves_fillBody color) h
  | convert r g b => exact settles_runOperation (op := .convert) (src := none) (behaves_convertBody r g b) h
  | decodeBmp hd => exact settles_runOperation (behaves_decodeBmpBody hd) h
  | _ => cases hi

end Sys2Proof.Proofs
end

section
/-! PROOFS. What a step can do, said once: a construction, or nothing, a host operation, a request refused, or
something of the controller by itself (R240, R227, R63, R88, R89). -/

namespace Sys2Proof.Proofs

open Sys2Proof.Machine Sys2Proof.Safety

/-! ## What the decoder takes of the request port (R86) -/

theorem takeReq_suffix {n : Nat} {ws rest : List WireByte} {bs : List Byte} (h : takeReq n ws = some (bs, rest)) :
    rest <:+ ws := by
  induction n, ws using takeReq.induct generalizing bs with
  | case1 ws =>
    obtain ⟨-, rfl⟩ : [] = bs ∧ ws = rest := by simpa [takeReq] using h
    exact List.suffix_rfl
  | case2 n b ws ih =>
    obtain ⟨⟨cs, r⟩, hr, he⟩ := Option.map_eq_some_iff.1 h
    obtain ⟨-, rfl⟩ : b :: cs = bs ∧ r = rest := by simpa using he
    exact (ih hr).trans (List.suffix_cons _ _)
  | case3 n ws hne => simp [takeReq] at h

theorem afterRequest_suffix (ws : List WireByte) : afterRequest ws <:+ ws := by
  induction ws using afterRequest.induct with
  | case1 b ws ih => exact ih.trans (List.suffix_cons _ _)
  | case2 ws hne => simp [afterRequest]

/-- What a request decodes to: a host operation, or a request refused; and what stays is what waits behind it. -/
def TakesRequest (ws : List WireByte) : Decoded → Prop
  | .instr i rest => isHostOp i = true ∧ rest <:+ ws
  | .reservedOp _ rest => rest <:+ ws
  | .truncated _ rest => rest <:+ ws
  | .idle => False
  | .cutFrame _ _ => False
  | .strayData _ _ => False
  | .unknownCommand _ => False

theorem cutRequest_takes (op : Byte) (ws : List WireByte) : TakesRequest ws (cutRequest op ws) := afterRequest_suffix ws

theorem decodeWritePixels_takes (ws : List WireByte) : TakesRequest ws (decodeWritePixels ws) := by
  unfold decodeWritePixels
  split
  · next h =>
    split
    · next h' => exact ⟨rfl, (takeReq_suffix h').trans (takeReq_suffix h)⟩
    · exact cutRequest_takes _ _
  · exact cutRequest_takes _ _

theorem decodeRequest_takes (op : Byte) (ws : List WireByte) : TakesRequest ws (decodeRequest op ws) := by
  unfold decodeRequest
  split
  · exact ⟨rfl, List.suffix_rfl⟩
  · unfold decodeSetWindow
    split
    · next h => exact ⟨rfl, takeReq_suffix h⟩
    · exact cutRequest_takes _ _
  · exact decodeWritePixels_takes ws
  · exact ⟨rfl, List.suffix_rfl⟩
  · unfold decodeFill
    split
    · next h => exact ⟨rfl, takeReq_suffix h⟩
    · exact cutRequest_takes _ _
  · unfold decodeConvert
    split
    · next h => exact ⟨rfl, takeReq_suffix h⟩
    · exact cutRequest_takes _ _
  · unfold decodeDecodeBmp
    split
    · next h => exact ⟨rfl, takeReq_suffix h⟩
    · exact cutRequest_takes _ _
  · exact List.suffix_rfl

theorem takesRequest_of_suffix {ws ws' : List WireByte} {d : Decoded} (h : TakesRequest ws d) (hs : ws <:+ ws') :
    TakesRequest ws' d := by
  cases d with
  | instr i rest => exact ⟨h.1, h.2.trans hs⟩
  | reservedOp op rest => exact List.IsSuffix.trans h hs
  | truncated op rest => exact List.IsSuffix.trans h hs
  | _ => exact h

/-- Where only requests wait, a request is what the decoder finds (R63, R86). -/
theorem decode_requestsOnly {s : State} (h : requestsOnly s) :
    decode s.cfg s.input = .idle ∨ TakesRequest s.input (decode s.cfg s.input) := by
  unfold requestsOnly at h
  cases hin : s.input with
  | nil => exact .inl rfl
  | cons w ws =>
    obtain ⟨op, rfl⟩ := h w (by simp [hin])
    exact .inr (takesRequest_of_suffix (decodeRequest_takes op ws) (List.suffix_cons _ _))

/-! ## Steps -/

/-- Everything a step can do where no construction waits. -/
inductive StepCase (s t : State) : Prop
  /-- Nothing waits (R227). -/
  | idle (h : t = s)
  /-- A host operation runs (R7). -/
  | operation {i : Instr} {rest : List WireByte} (hdec : decode s.cfg s.input = .instr i rest) (hi : isHostOp i = true)
    (h : exec i (consume rest s) = .next t)
  /-- A request is refused at its decoding (R88, 93 I15). -/
  | refused {op : Byte} {rest : List WireByte}
    (hdec : decode s.cfg s.input = .reservedOp op rest ∨ decode s.cfg s.input = .truncated op rest)
    (h : t = illegalOperation op (consume rest s))
  /-- The controller by itself takes bytes of its bus (R121). -/
  | controller {rest : List WireByte} (hbus : ¬ requestsOnly s) (h : OnlyController (consume rest s) t)
    (hg : Memory.wf (consume rest s).gram = true → Memory.wf t.gram = true)

theorem runFrame_next {code : Byte} {payload : List Byte} {s t : State} (h : runFrame code payload s = .next t) :
    OnlyController s t ∧ (Memory.wf s.gram = true → Memory.wf t.gram = true) := by
  unfold runFrame at h
  split at h
  · next u hu =>
    obtain rfl : u = t := by simpa using h
    exact ⟨ctlFrame_only hu, fun hs => ctlFrame_wf hs hu⟩
  · cases h

/-- The eight commands concern the controller alone (R122-R129). -/
theorem exec_command {i : Instr} {s t : State} (hi : isHostOp i = false) (h : exec i s = .next t) :
    OnlyController s t ∧ (Memory.wf s.gram = true → Memory.wf t.gram = true) := by
  cases i with
  | swreset => exact runFrame_next (code := s.cfg.cmdSwreset) (payload := []) h
  | slpout => exact runFrame_next (code := s.cfg.cmdSlpout) (payload := []) h
  | caset x0 x1 => exact runFrame_next h
  | raset y0 y1 => exact runFrame_next h
  | ramwr stream => exact runFrame_next h
  | colmod v => exact runFrame_next h
  | madctl v => exact runFrame_next h
  | dispon => exact runFrame_next (code := s.cfg.cmdDispon) (payload := []) h
  | _ => cases hi

theorem not_requestsOnly {s : State} {d : Decoded} (hd : decode s.cfg s.input = d) (hidle : d ≠ .idle)
    (h : ¬ TakesRequest s.input d) : ¬ requestsOnly s := by
  subst hd
  exact fun hr => (decode_requestsOnly hr).elim hidle h

theorem runWaiting_cases {s t : State} (h : runWaiting s = .next t) : StepCase s t := by
  unfold runWaiting fetch at h
  cases hd : decode s.cfg s.input with
  | idle =>
    rw [hd] at h
    cases h
    exact .idle rfl
  | instr i rest =>
    rw [hd] at h
    cases hi : isHostOp i with
    | true => exact .operation hd hi h
    | false =>
      obtain ⟨ho, hg⟩ := exec_command hi h
      exact .controller (not_requestsOnly hd nofun (by simp [TakesRequest, hi])) ho hg
  | reservedOp op rest =>
    rw [hd] at h
    cases h
    exact .refused (.inl hd) rfl
  | truncated op rest =>
    rw [hd] at h
    cases h
    exact .refused (.inr hd) rfl
  | cutFrame b rest =>
    rw [hd] at h
    cases h
    exact .controller (not_requestsOnly hd nofun id) (ctlCommand_only b _)
      (ctlCommand_wf b)
  | strayData b rest =>
    rw [hd] at h
    simp only [receiveData] at h
    split at h
    · next u hu =>
      cases h
      exact .controller (not_requestsOnly hd nofun id) (ctlData_only hu)
        fun hs => ctlData_wf hs hu
    · cases h
  | unknownCommand b =>
    rw [hd] at h
    cases h

/-- A step that answers has a legal configuration, and is one of the cases. -/
theorem step_cases {s t : State} (hn : s.newInstance = none) (h : step s = .next t) :
    s.cfg.wf = true ∧ StepCase s t := by
  unfold step at h
  simp only [hn] at h
  split at h
  · next hw =>
    split at h
    · cases h
    · exact ⟨hw, runWaiting_cases h⟩
  · cases h

/-- A construction that answers is the block reset to a legal configuration (R240, 93 I17). -/
theorem step_construct {s : State} {c : Config} (hn : s.newInstance = some c) :
    step s = if c.wf then .next (blockReset c s) else .refused .illFormedConfig := by
  simp [step, hn, construct]

/-- A refused request settles: nothing but the status changes (R88). -/
theorem settles_illegalOperation {i : Instr} (op : Byte) (s : State) : Settles i s (illegalOperation op s) :=
  settles_takeAbort _ _ s

/-- A step settles as a part of the operation that waits, or of one that is none of the host's. -/
theorem step_settles {s t : State} (hn : s.newInstance = none) (h : step s = .next t) :
    ∃ i rest, Settles i (consume rest s) t ∧ (isHostOp i = true → decode s.cfg s.input = .instr i rest) := by
  obtain ⟨-, hcase⟩ := step_cases hn h
  cases hcase with
  | idle h =>
    subst h
    exact ⟨.dispon, t.input, .refl _ t, nofun⟩
  | @operation i rest hdec hi h => exact ⟨i, rest, settles_exec hi h, fun _ => hdec⟩
  | @refused op rest hdec h => exact ⟨.dispon, rest, h ▸ settles_illegalOperation op _, nofun⟩
  | @controller rest hbus h hg => exact ⟨.dispon, rest, settles_of_onlyController h hg, nofun⟩

end Sys2Proof.Proofs
end

section
/-! PROOFS. The statements of spec/10_state.md on what a step may write (R20-R42). -/

namespace Sys2Proof.Proofs

open Sys2Proof.Machine Sys2Proof.Safety

/-- Settles O17: every part of an operation keeps the configuration. -/
theorem configurationReadOnly : Obligations.ConfigurationReadOnly := by
  intro s t hn h
  obtain ⟨i, rest, hs, -⟩ := step_settles hn h
  exact hs.cfg

/-- Settles O18: every part of an operation other than INIT keeps the two registers. -/
theorem driverStateWrittenByInitOnly : Obligations.DriverStateWrittenByInitOnly := by
  intro s t hn h hchange
  obtain ⟨i, rest, hs, hdec⟩ := step_settles hn h
  by_cases hi : i = .init
  · subst hi
    exact ⟨rest, hdec rfl⟩
  · obtain ⟨hdrv, hrst⟩ := hs.driver hi
    exact absurd hchange (not_or.2 ⟨not_not.2 hdrv, not_not.2 hrst⟩)

/-- Settles O19: every part of an operation other than DECODE_BMP keeps the decoder where no source is open. -/
theorem decoderWrittenByDecodeOnly : Obligations.DecoderWrittenByDecodeOnly := by
  intro s t hn hclosed h hchange
  obtain ⟨i, rest, hs, hdec⟩ := step_settles hn h
  by_cases hi : ∃ hd, i = .decodeBmp hd
  · obtain ⟨hd, rfl⟩ := hi
    exact ⟨hd, rest, hdec rfl⟩
  · exact absurd (hs.decoder (fun hd he => hi ⟨hd, he⟩) hclosed) hchange

/-- Settles O20: the events of a step stand in front of the trace, which is kept newest first. -/
theorem traceOnlyGrows : Obligations.TraceOnlyGrows := by
  intro s t hn h
  obtain ⟨i, rest, hs, -⟩ := step_settles hn h
  obtain ⟨es, hes⟩ := hs.trace
  exact ⟨es.reverse, by rw [State.events, ← hes, List.reverse_append]; rfl⟩

end Sys2Proof.Proofs
end

section
/-! PROOFS. The invariants between operations (spec/10_state.md R21-R29, 20_memory.md R52, R63,
42_driver_ops.md R144). -/

namespace Sys2Proof.Proofs

open Sys2Proof.Machine Sys2Proof.Safety

/-! ## The end of an operation's body -/

theorem leaves_of_forall {α : Type} {x : Op α} {Q : α → State → Prop} {E : StCode → State → Prop} {s : State}
    (hQ : ∀ a t, Q a t) (hE : ∀ c t, E c t) : Leaves x Q E s := by
  unfold Leaves
  split
  · exact hQ _ _
  · exact hE _ _
  · trivial

theorem Ends.leaves {α : Type} {x : Op α} {Q : α → State → Prop} {s : State} (h : Ends x Q s) :
    Leaves x Q (fun _ _ => True) s := by
  unfold Ends at h
  unfold Leaves
  split <;> simp_all

/-- An operation that needs `Ready` returns only from there (R22). -/
theorem ready_of_ok {x : Op (Option Half)} {r : Option Half} {s u : State}
    (h : (requireReady >>= fun _ => x) s = .ok r u) : s.drvState = .ready := by
  have hleaves : Leaves (requireReady >>= fun _ => x) (fun _ _ => s.drvState = .ready) (fun _ _ => True) s := by
    rw [leaves_bind]
    exact leaves_requireReady (fun hr => leaves_of_forall (fun _ _ => hr) fun _ _ => trivial) trivial
  exact hleaves.of_ok h

/-- INIT returns in `Ready` (R141). -/
theorem initBody_ok_ready {r : Option Half} {s u : State} (h : initBody s = .ok r u) : u.drvState = .ready := by
  have hleaves : Leaves initBody (fun _ t => t.drvState = .ready) (fun _ _ => True) s := by
    simp only [initBody, leaves_bind, leaves_update, leaves_pure]
    refine leaves_of_forall (fun _ _ => ?_) fun _ _ => trivial
    refine leaves_of_forall (fun _ _ => ?_) fun _ _ => trivial
    exact leaves_of_forall (fun _ _ => trivial) fun _ _ => trivial
  exact hleaves.of_ok h

theorem closeSource_decSrcOpen (s : State) : (closeSource s).decSrcOpen = false := by
  unfold closeSource
  split
  · rfl
  · next h => exact Bool.eq_false_iff.2 h

theorem closeSource_streamOpen (s : State) : (closeSource s).streamOpen = s.streamOpen := by
  unfold closeSource
  split <;> rfl

/-- DECODE_BMP returns with the source and the stream closed (R181). -/
theorem decodeBmpBody_ok_closed {hd : Byte} {r : Option Half} {s u : State} (h : decodeBmpBody hd s = .ok r u) :
    u.decSrcOpen = false ∧ u.streamOpen = false := by
  have hleaves : Leaves (decodeBmpBody hd) (fun _ t => t.decSrcOpen = false ∧ t.streamOpen = false)
      (fun _ _ => True) s := by
    simp only [decodeBmpBody, leaves_bind, leaves_update, leaves_pure]
    refine leaves_of_forall (fun _ _ => ?_) fun _ _ => trivial
    refine leaves_of_forall (fun _ _ => ?_) fun _ _ => trivial
    refine leaves_of_forall (fun _ _ => ?_) fun _ _ => trivial
    refine leaves_of_forall (fun _ t => ⟨closeSource_decSrcOpen _, ?_⟩) fun _ _ => trivial
    rw [closeSource_streamOpen, closeStream_streamOpen]
  exact hleaves.of_ok h

/-! ## At rest (R21-R29) -/

section resting
variable {i : Instr} {s t : State}

/-- What a settled part leaves to show of a state at rest. -/
theorem Settles.resting (h : Settles i s t) (hs : Resting s) (hseq : t.seq = .idle) (hsrc : t.decSrcOpen = false)
    (hdrv : t.drvState ≠ .resetting ∧ t.drvState ≠ .initializing) (hready : t.streamOpen = true → t.drvState = .ready) :
    Resting t := by
  obtain ⟨hgram, hhdr, hin, hout⟩ := h.formed ⟨hs.gramForm, hs.hdrForm, hs.inbufForm, hs.outbufForm⟩
  obtain ⟨hsel, hdata⟩ := h.bus ⟨hs.selectedIffStream, hs.streamInData⟩
  exact ⟨hseq, hsrc, hdrv, hsel, hdata, hready, h.resetHigh hs.resetHigh, h.line hs.lineAgrees, hgram, hhdr, hin, hout⟩

theorem Settles.resting_same (h : Settles i s t) (hs : Resting s) (hseq : t.seq = s.seq)
    (hsrc : t.decSrcOpen = s.decSrcOpen) (hdrv : t.drvState = s.drvState) (ho : t.streamOpen = s.streamOpen) :
    Resting t :=
  h.resting hs (hseq.trans hs.seqIdle) (hsrc.trans hs.sourceClosed) (hdrv ▸ hs.notInInit) fun hopen =>
    hdrv.trans (hs.streamInReady (ho.symm.trans hopen))

/-- Taking waiting bytes disturbs nothing at rest. -/
theorem resting_consume (hs : Resting s) (rest : List WireByte) : Resting (consume rest s) := by
  obtain ⟨hseq, hsrc, hdrv, hsel, hdata, hready, hrst, hline, hgram, hhdr, hin, hout⟩ := hs
  exact ⟨hseq, hsrc, hdrv, hsel, hdata, hready, hrst, hline, hgram, hhdr, hin, hout⟩

theorem resting_reportStatus (hs : Resting s) (info : StInfo) (c : StCode) : Resting (reportStatus info c s) :=
  (settles_reportStatus (i := .dispon) info c s).resting_same hs rfl rfl rfl rfl

theorem resting_illegalOperation (hs : Resting s) (op : Byte) : Resting (illegalOperation op s) :=
  resting_reportStatus hs _ _

theorem takeAbort_statusOnly_eq {info : StInfo} {c : StCode} (h : c.statusOnly = true) :
    takeAbort info c s = reportStatus info c s := by simp [takeAbort, h]

theorem takeAbort_drvState (info : StInfo) (c : StCode) (s : State) : (takeAbort info c s).drvState = s.drvState :=
  ((settles_takeAbort (i := .dispon) info c s).driver nofun).1

/-- An operation ends at rest (R13, R216): it returns in `Ready` with its source closed, or it raises with nothing
changed, or the abort sequence closes what it left open. -/
theorem resting_runOperation {E : StCode → State → Prop} {op : OpName} {src : Option Byte} {body : Op (Option Half)}
    (hb : Behaves E i body s) (hs : Resting s)
    (hok : ∀ r u, body s = .ok r u → u.decSrcOpen = false ∧ u.drvState = .ready)
    (hfail : ∀ c u, E c u → Settles i s u → u.drvState ≠ .resetting ∧ u.drvState ≠ .initializing)
    (hrun : runOperation op src body s = .next t) : Resting t := by
  have hset := settles_runOperation hb hrun
  rcases runOperation_cases op src body s with ⟨r, u, hu, e⟩ | ⟨c, rs, d, u, hu, e⟩ | ⟨f, u, hu, e⟩
  · obtain rfl : returnOk r u = t := by simpa [hrun] using e.symm
    obtain ⟨hsrc, hready⟩ := hok r u hu
    exact hset.resting hs rfl hsrc (hready ▸ ⟨nofun, nofun⟩ : u.drvState ≠ _ ∧ u.drvState ≠ _) fun _ => hready
  · obtain rfl : takeAbort ⟨some op, src, rs, d⟩ c u = t := by simpa [hrun] using e.symm
    rcases hb.of_raise hu with ⟨hc, rfl⟩ | ⟨hc, hE, hu'⟩
    · rw [takeAbort_statusOnly_eq hc]
      exact resting_reportStatus hs _ _
    · obtain ⟨hclosed, hsrc, hseq⟩ := takeAbort_closes (info := ⟨some op, src, rs, d⟩) (s := u) hc
      refine hset.resting hs hseq hsrc ?_ fun ho => absurd ho (by simp [hclosed])
      rw [takeAbort_drvState]
      exact hfail c u hE hu'
  · simp [hrun] at e

/-- An operation that needs `Ready` (R22) ends at rest if it returns with its source closed. -/
theorem resting_pixelOperation {op : OpName} {src : Option Byte} {x : Op (Option Half)} 
    (hb : Behaves Aborting i (requireReady >>= fun _ => x) s) (hi : i ≠ .init) (hs : Resting s)
    (hsrc : ∀ r u, (requireReady >>= fun _ => x) s = .ok r u → u.decSrcOpen = false)
    (hrun : runOperation op src (requireReady >>= fun _ => x) s = .next t) : Resting t := by
  refine resting_runOperation hb hs (fun r u hu => ⟨hsrc r u hu, ?_⟩) (fun c u _ hu => ?_) hrun
  · exact ((hb.of_ok hu).driver hi).1.trans (ready_of_ok hu)
  · rw [(hu.driver hi).1]
    exact hs.notInInit

/-- Only DECODE_BMP opens a source (R29). -/
theorem Behaves.source_closed {E : StCode → State → Prop} {body : Op (Option Half)} (hb : Behaves E i body s)
    (hi : ∀ h, i ≠ .decodeBmp h) (hs : Resting s) {r : Option Half} {u : State} (hu : body s = .ok r u) :
    u.decSrcOpen = false :=
  (sameDecoder_decSrcOpen ((hb.of_ok hu).decoder hi hs.sourceClosed)).trans hs.sourceClosed

/-- CONVERT touches no register but the status (R170). -/
theorem exec_convert (r g b : Byte) (s : State) :
    exec (.convert r g b) s = .next (returnOk (some (convertPixel s.cfg.swapRb r g b)) s) := rfl

/-- Every host operation ends at rest. -/
theorem resting_exec (hi : isHostOp i = true) (hs : Resting s) (h : exec i s = .next t) : Resting t := by
  cases i with
  | init =>
    have hb := behaves_initBody (s := s)
    refine resting_runOperation hb hs (fun r u hu => ⟨hb.source_closed nofun hs hu, initBody_ok_ready hu⟩) ?_ h
    rintro c u ⟨-, hu⟩ -
    exact hu ▸ ⟨nofun, nofun⟩
  | setWindow x0 y0 x1 y1 =>
    have hb := behaves_setWindowBody (i := .endWrite) (s := s) x0 y0 x1 y1
    exact resting_pixelOperation hb nofun hs (fun r u hu => hb.source_closed nofun hs hu) h
  | writePixels bytes =>
    have hb := behaves_writePixelsBody (i := .endWrite) (s := s) bytes
    exact resting_pixelOperation hb nofun hs (fun r u hu => hb.source_closed nofun hs hu) h
  | endWrite =>
    have hb := behaves_endWriteBody (i := .endWrite) (s := s)
    exact resting_pixelOperation hb nofun hs (fun r u hu => hb.source_closed nofun hs hu) h
  | fill color =>
    have hb := behaves_fillBody (i := .endWrite) (s := s) color
    exact resting_pixelOperation hb nofun hs (fun r u hu => hb.source_closed nofun hs hu) h
  | convert r g b =>
    rw [exec_convert] at h
    cases h
    exact (settles_returnOk (i := .dispon) _ s).resting_same hs hs.seqIdle.symm rfl rfl rfl
  | decodeBmp hd =>
    exact resting_pixelOperation (behaves_decodeBmpBody hd) nofun hs (fun r u hu => (decodeBmpBody_ok_closed hu).1) h
  | _ => cases hi

end resting

/-- Block reset leaves the machine at rest (R41, R240). -/
theorem resting_blockReset (c : Config) (s : State) : Resting (blockReset c s) :=
  ⟨rfl, rfl, ⟨nofun, nofun⟩, rfl, nofun, nofun, rfl, rfl, rfl, rfl, rfl, rfl⟩

/-- Settles O12, by the cases of a step: a construction starts at rest, a host operation ends at rest, and what is left
changes the status alone or the controller alone. -/
theorem stepKeepsResting : Obligations.StepKeepsResting := by
  intro s t hs h
  cases hn : s.newInstance with
  | some c =>
    rw [step_construct hn] at h
    split at h
    · cases h
      exact resting_blockReset c s
    · cases h
  | none =>
    obtain ⟨-, hcase⟩ := step_cases hn h
    cases hcase with
    | idle h => exact h ▸ hs
    | operation hdec hi h => exact resting_exec hi (resting_consume hs _) h
    | refused hdec h => exact h ▸ resting_illegalOperation (resting_consume hs _) _
    | controller hbus h hg =>
      have hsrc : t.decSrcOpen = s.decSrcOpen := by
        rw [h]
        rfl
      exact (settles_of_onlyController (i := .dispon) h hg).resting_same (resting_consume hs _) (onlyController_seq h) hsrc
        (onlyController_drvState h) (onlyController_streamOpen h)

/-! ## Under a host program (R52, R63) -/

/-- While a stream is open the controller is in the memory-write context, its window in the panel (R25, R52). -/
def StreamInWindow (s : State) : Prop :=
  s.streamOpen = true → s.ctl.cmd = some s.cfg.cmdRamwr ∧ windowInPanel s

theorem streamInWindow_of_closed {s : State} (h : s.streamOpen = false) : StreamInWindow s :=
  fun ho => absurd ho (by simp [h])

section host
variable {s t : State}

/-- INIT returns with the bus free, so with no stream open. -/
theorem ends_initBody_free (hw : s.cfg.wf = true) (hb : s.busSel = s.streamOpen) :
    Ends initBody (fun _ t => t.busSel = false) s := by
  simp only [initBody, ends_bind, ends_update]
  refine ends_requireInitLegal (ends_initClaim.mono fun _ t ht => ?_)
  have hclose := closeStream_onlyPorts hb
  have hfree : BusFree s.cfg t := ⟨ht.cfg.trans hclose.cfg, ht.busSel.trans hclose.busSel⟩
  exact ends_initSequence hw (initPulse_busFree hfree) fun _ hu => hu.2

theorem streamInWindow_init {r : Option Half} {u : State} (hw : s.cfg.wf = true) (hs : Resting s)
    (h : initBody s = .ok r u) : StreamInWindow u := by
  have hfree : u.busSel = false := (ends_initBody_free hw hs.selectedIffStream).leaves.of_ok h
  have hbus := (behaves_initBody.of_ok h).bus ⟨hs.selectedIffStream, hs.streamInData⟩
  exact streamInWindow_of_closed (hbus.1.symm.trans hfree)

/-- SET_WINDOW returns with the window it was given, which its check found in the panel (R143, R144). -/
theorem streamInWindow_setWindow {x0 y0 x1 y1 : Half} {r : Option Half} {u : State} (hw : s.cfg.wf = true)
    (hs : Resting s) (h : setWindowBody x0 y0 x1 y1 s = .ok r u) : StreamInWindow u := by
  have hleaves : Leaves (setWindowBody x0 y0 x1 y1) (fun _ t => StreamInWindow t) (fun _ _ => True) s := by
    simp only [setWindowBody, leaves_bind, leaves_pure]
    refine leaves_requireReady (fun _ => leaves_requireWindow (fun hr => ?_) trivial) trivial
    refine (ends_windowBody hw hs.selectedIffStream).leaves.mono (fun _ t ht _ => ?_) fun _ _ h => h
    obtain ⟨hports, hcmd, hxs, hys, hxe, hye⟩ := ht
    have hcfg : t.cfg = s.cfg := hports.cfg
    refine ⟨hcfg ▸ hcmd, ?_⟩
    rw [windowInPanel, hxs, hxe, hys, hye, hcfg]
    exact of_decide_eq_true hr
  exact hleaves.of_ok h

/-- WRITE_PIXELS keeps the context and the window of its stream (R106, R126). -/
theorem streamInWindow_writePixels {bytes : List Byte} {r : Option Half} {u : State} (hw : s.cfg.wf = true)
    (hs : Resting s) (hin : StreamInWindow s) (h : writePixelsBody bytes s = .ok r u) : StreamInWindow u := by
  have hleaves : Leaves (writePixelsBody bytes) (fun _ t => StreamInWindow t) (fun _ _ => True) s := by
    simp only [writePixelsBody, append, leaves_bind, leaves_pure, leaves_look]
    refine leaves_requireReady (fun _ => leaves_requireStream (fun ho => ?_) trivial) trivial
    refine leaves_ite (fun _ => ?_) fun hn => absurd ho hn
    obtain ⟨hcmd, hwin⟩ := hin ho
    have hsend := ends_sendBytes_sending (frame := .stream) (close := closeStream) (bs := bytes) (i := 0) hw
      (hs.streamInData ho) fun _ => hwin
    refine hsend.leaves.mono (fun _ t ht _ => ?_) fun _ _ h => h
    have hctx : t.ctl.cmd = some t.cfg.cmdRamwr := by rw [ht.cmd, hcmd, ht.ports.cfg]
    exact ⟨hctx, ht.fits hctx⟩
  exact hleaves.of_ok h

theorem streamInWindow_endWrite {r : Option Half} {u : State} (h : endWriteBody s = .ok r u) : StreamInWindow u := by
  have hleaves : Leaves endWriteBody (fun _ t => t.streamOpen = false) (fun _ _ => True) s := by
    simp only [endWriteBody, leaves_bind, leaves_update, leaves_pure]
    exact leaves_of_forall (fun _ _ => closeStream_streamOpen _) fun _ _ => trivial
  exact streamInWindow_of_closed (hleaves.of_ok h)

theorem streamInWindow_fill {color : Half} {r : Option Half} {u : State} (h : fillBody color s = .ok r u) :
    StreamInWindow u := by
  have hleaves : Leaves (fillBody color) (fun _ t => t.streamOpen = false) (fun _ _ => True) s := by
    simp only [fillBody, leaves_bind, leaves_update, leaves_look, leaves_pure]
    refine leaves_of_forall (fun _ _ => ?_) fun _ _ => trivial
    refine leaves_of_forall (fun _ _ => ?_) fun _ _ => trivial
    exact leaves_of_forall (fun _ _ => closeStream_streamOpen _) fun _ _ => trivial
  exact streamInWindow_of_closed (hleaves.of_ok h)

/-- The abort sequence leaves no stream open, unless nothing has changed at all. -/
theorem streamInWindow_runOperation {E : StCode → State → Prop} {i : Instr} {op : OpName} {src : Option Byte}
    {body : Op (Option Half)} (hb : Behaves E i body s) (hin : StreamInWindow s)
    (hok : ∀ r u, body s = .ok r u → StreamInWindow u) (hrun : runOperation op src body s = .next t) :
    StreamInWindow t := by
  rcases runOperation_cases op src body s with ⟨r, u, hu, e⟩ | ⟨c, rs, d, u, hu, e⟩ | ⟨f, u, hu, e⟩
  · obtain rfl : returnOk r u = t := by simpa [hrun] using e.symm
    exact hok r u hu
  · obtain rfl : takeAbort ⟨some op, src, rs, d⟩ c u = t := by simpa [hrun] using e.symm
    rcases hb.of_raise hu with ⟨hc, rfl⟩ | ⟨hc, -, -⟩
    · rw [takeAbort_statusOnly_eq hc]
      exact hin
    · exact streamInWindow_of_closed (takeAbort_closes hc).1
  · simp [hrun] at e

theorem streamInWindow_exec {i : Instr} (hi : isHostOp i = true) (hw : s.cfg.wf = true) (hs : Resting s)
    (hin : StreamInWindow s) (h : exec i s = .next t) : StreamInWindow t := by
  cases i with
  | init => exact streamInWindow_runOperation behaves_initBody hin (fun _ _ => streamInWindow_init hw hs) h
  | setWindow x0 y0 x1 y1 =>
    exact streamInWindow_runOperation (behaves_setWindowBody (i := .endWrite) x0 y0 x1 y1) hin
      (fun _ _ => streamInWindow_setWindow hw hs) h
  | writePixels bytes =>
    exact streamInWindow_runOperation (behaves_writePixelsBody (i := .endWrite) bytes) hin
      (fun _ _ => streamInWindow_writePixels hw hs hin) h
  | endWrite =>
    exact streamInWindow_runOperation (behaves_endWriteBody (i := .endWrite)) hin (fun _ _ => streamInWindow_endWrite) h
  | fill color =>
    exact streamInWindow_runOperation (behaves_fillBody (i := .endWrite) color) hin (fun _ _ => streamInWindow_fill) h
  | convert r g b =>
    rw [exec_convert] at h
    cases h
    exact hin
  | decodeBmp hd =>
    exact streamInWindow_runOperation (behaves_decodeBmpBody hd) hin
      (fun _ _ hu => streamInWindow_of_closed (decodeBmpBody_ok_closed hu).2) h
  | _ => cases hi

end host

/-- What stays behind a request is requests. -/
theorem requestsOnly_of_suffix {s t : State} (h : requestsOnly s) (hs : t.input <:+ s.input) : requestsOnly t :=
  fun w hw => h w (hs.subset hw)

theorem hostState_blockReset {c : Config} {s : State} (h : HostState s) : HostState (blockReset c s) :=
  ⟨resting_blockReset c s, rfl, h.requests, nofun, nofun⟩

/-- Settles O13, by the cases of a step: at rest by O12; what stays behind a request is requests; an operation that returns
with a stream open has put its window in the panel, and one that aborts leaves none open. -/
theorem stepKeepsHostState : Obligations.StepKeepsHostState := by
  intro s t hs h
  have hrest : Resting t := stepKeepsResting s t hs.resting h
  have hin : StreamInWindow s := fun ho => ⟨hs.streamContext ho, hs.streamWindow ho⟩
  cases hn : s.newInstance with
  | some c =>
    rw [step_construct hn] at h
    split at h
    · cases h
      exact hostState_blockReset hs
    · cases h
  | none =>
    obtain ⟨hw, hcase⟩ := step_cases hn h
    cases hcase with
    | idle h => exact h ▸ hs
    | @operation i rest hdec hi h =>
      have hset := settles_exec hi h
      have hstream := streamInWindow_exec (s := consume rest s) hi hw (resting_consume hs.resting rest) hin h
      have hinput : t.input <:+ s.input := by
        have htakes := decode_requestsOnly hs.requests
        rw [hdec] at htakes
        rw [hset.input]
        exact (htakes.resolve_left nofun).2
      exact ⟨hrest, hset.busDriver.trans hs.coreOnBus, requestsOnly_of_suffix hs.requests hinput,
        fun ho => (hstream ho).1, fun ho => (hstream ho).2⟩
    | @refused op rest hdec h =>
      subst h
      have hinput : rest <:+ s.input := by
        have htakes := decode_requestsOnly hs.requests
        rcases hdec with hdec | hdec <;> rw [hdec] at htakes <;> exact htakes.resolve_left nofun
      exact ⟨hrest, hs.coreOnBus, requestsOnly_of_suffix hs.requests hinput, hs.streamContext, hs.streamWindow⟩
    | controller hbus h hg => exact absurd hs.requests hbus

end Sys2Proof.Proofs
end

section
/-! PROOFS. The statements of spec/10_state.md on reset and construction (R35, R37, R41, R240). -/

namespace Sys2Proof.Proofs

open Sys2Proof.Machine Sys2Proof.Safety

/-- Settles O8: a legal construction answers `blockReset`, field by field. -/
theorem blockResetValues : Obligations.BlockResetValues := by
  intro s c hn hw
  refine ⟨blockReset c s, by rw [step_construct hn, if_pos hw], ?_⟩
  simp [blockReset, State.resetWith]

/-- Settles O9: the configuration is checked at the construction, and at every other step. -/
theorem illFormedConfigRefused : Obligations.IllFormedConfigRefused := by
  refine ⟨fun s c hn hw => ?_, fun s hn hw => ?_⟩
  · rw [step_construct hn, hw]
    rfl
  · simp [step, hn, hw]

/-- Settles O10: the values of R41, R37 and R6, by evaluation of `State.reset`. -/
theorem resetState : Obligations.ResetState := by
  unfold Obligations.ResetState
  exact ⟨rfl, rfl, rfl, rfl, rfl, rfl, rfl, rfl, rfl, rfl, rfl, rfl, rfl, rfl, rfl, rfl, rfl, rfl, rfl, rfl, rfl, rfl, rfl⟩

/-- Settles O11: nothing is open, nothing waits and nothing has been sent. -/
theorem resetMeetsInvariants : Obligations.ResetMeetsInvariants := by
  intro c
  have hrest : Resting (State.resetWith c) :=
    ⟨rfl, rfl, ⟨nofun, nofun⟩, rfl, nofun, nofun, rfl, rfl, rfl, rfl, rfl, rfl⟩
  exact ⟨hrest, ⟨hrest, rfl, nofun, nofun, nofun⟩, nofun⟩

end Sys2Proof.Proofs
end

section
/-! PROOFS. TFTCORE does not read GRAM (spec/20_memory.md R50). Two runs that differ in GRAM alone are related, part by part:
each part gives them the same answer, the same stop, and states that again differ in GRAM alone. -/

namespace Sys2Proof.Proofs

open Sys2Proof.Machine Sys2Proof.Safety

/-! ## Runs that differ in GRAM alone -/

/-- `t` is `s` with other contents of GRAM. -/
def GramApart (s t : State) : Prop := ∃ g e, t = { s with gram := g, gramEpoch := e }

/-- Ends of a part of an operation that differ in GRAM alone. -/
inductive SameEnd {α : Type} : EStateM.Result Stop State α → EStateM.Result Stop State α → Prop
  | ok {a : α} {s t : State} (h : GramApart s t) : SameEnd (.ok a s) (.ok a t)
  | error {e : Stop} {s t : State} (h : GramApart s t) : SameEnd (.error e s) (.error e t)

/-- What the controller makes of a byte, in two runs that differ in GRAM alone. -/
inductive SameReception : Except Fault State → Except Fault State → Prop
  | ok {s t : State} (h : GramApart s t) : SameReception (.ok s) (.ok t)
  | error (f : Fault) : SameReception (.error f) (.error f)

/-- An update that carries a difference in GRAM nowhere else. -/
def UpdateBlind (f : State → State) : Prop := ∀ s t, GramApart s t → GramApart (f s) (f t)

/-- A reception that carries a difference in GRAM nowhere else. -/
def ReceptionBlind (f : State → Except Fault State) : Prop := ∀ s t, GramApart s t → SameReception (f s) (f t)

/-- A part of an operation that carries a difference in GRAM nowhere else. -/
def Blind {α : Type} (x : Op α) : Prop := ∀ s t, GramApart s t → SameEnd (x s) (x t)

theorem gramApart_set (s : State) (g : List Host.Cell) (e : Nat) :
    GramApart s { s with gram := g, gramEpoch := e } := ⟨g, e, rfl⟩

theorem GramApart.dc {s t : State} (h : GramApart s t) : t.dc = s.dc := by
  obtain ⟨g, e, rfl⟩ := h
  rfl

/-- A choice by a condition that is the same in both runs. -/
theorem related_ite {α : Type} (R : α → α → Prop) {p : Prop} [Decidable p] {a b a' b' : α} (hp : R a b) (hn : R a' b') :
    R (if p then a else a') (if p then b else b') := by
  split
  · exact hp
  · exact hn

theorem GramApart.ite {p : Prop} [Decidable p] {s t s' t' : State} (hp : GramApart s t) (hn : GramApart s' t') :
    GramApart (if p then s else s') (if p then t else t') := related_ite GramApart hp hn

theorem SameReception.ite {p : Prop} [Decidable p] {r r' q q' : Except Fault State} (hp : SameReception r r')
    (hn : SameReception q q') : SameReception (if p then r else q) (if p then r' else q') :=
  related_ite SameReception hp hn

theorem SameEnd.ite {α : Type} {p : Prop} [Decidable p] {r r' q q' : EStateM.Result Stop State α} (hp : SameEnd r r')
    (hn : SameEnd q q') : SameEnd (if p then r else q) (if p then r' else q') := related_ite SameEnd hp hn

/-- It is enough to compare a state with the same state under other contents of GRAM. -/
theorem UpdateBlind.of_set {f : State → State}
    (hf : ∀ s g e, GramApart (f s) (f { s with gram := g, gramEpoch := e })) : UpdateBlind f := by
  rintro s _ ⟨g, e, rfl⟩
  exact hf s g e

theorem UpdateBlind.comp {f g : State → State} (hg : UpdateBlind g) (hf : UpdateBlind f) :
    UpdateBlind fun s => g (f s) := fun s t h => hg _ _ (hf s t h)

/-! ## The controller (R120-R132) -/

theorem updateBlind_freeStreamEffect : UpdateBlind freeStreamEffect :=
  .of_set fun _ _ _ => .ite ⟨_, _, rfl⟩ ⟨_, _, rfl⟩

theorem updateBlind_ctlHalfPixel : UpdateBlind ctlHalfPixel := by
  rintro s _ ⟨g, e, rfl⟩
  have hfree : GramApart (freeStreamEffect s) (freeStreamEffect { s with gram := g, gramEpoch := e }) :=
    updateBlind_freeStreamEffect _ _ (gramApart_set s g e)
  exact .ite (.ite (.ite ⟨_, _, rfl⟩ ⟨_, _, rfl⟩) hfree) ⟨_, _, rfl⟩

theorem updateBlind_ctlCutShort : UpdateBlind ctlCutShort :=
  .of_set fun _ _ _ => .ite (.ite ⟨_, _, rfl⟩ (.ite ⟨_, _, rfl⟩ ⟨_, _, rfl⟩)) ⟨_, _, rfl⟩

theorem updateBlind_ctlEndContext : UpdateBlind ctlEndContext := by
  intro s t h
  obtain ⟨g, e, he⟩ := updateBlind_ctlCutShort s t h
  exact ⟨g, e, by rw [ctlEndContext, he]; rfl⟩

theorem updateBlind_ctlBegin (b : Byte) : UpdateBlind (ctlBegin b) := .of_set fun _ _ _ => ⟨_, _, rfl⟩

theorem updateBlind_ctlEffect (b : Byte) : UpdateBlind (ctlEffect b) :=
  .of_set fun _ _ _ => .ite ⟨_, _, rfl⟩ (.ite ⟨_, _, rfl⟩ (.ite ⟨_, _, rfl⟩ (.ite ⟨_, _, rfl⟩ ⟨_, _, rfl⟩)))

theorem updateBlind_ctlCommand (b : Byte) : UpdateBlind (ctlCommand b) :=
  (updateBlind_ctlEffect b).comp ((updateBlind_ctlBegin b).comp updateBlind_ctlEndContext)

theorem updateBlind_ctlWindowByte (b : Byte) (done : Ctl → Ctl) : UpdateBlind (ctlWindowByte b done) :=
  .of_set fun _ _ _ => .ite ⟨_, _, rfl⟩ ⟨_, _, rfl⟩

theorem updateBlind_ctlColmodByte (b : Byte) : UpdateBlind (ctlColmodByte b) :=
  .of_set fun _ _ _ => .ite ⟨_, _, rfl⟩ ⟨_, _, rfl⟩

theorem updateBlind_ctlMadctlByte (b : Byte) : UpdateBlind (ctlMadctlByte b) :=
  .of_set fun _ _ _ => .ite ⟨_, _, rfl⟩ ⟨_, _, rfl⟩

theorem updateBlind_ctlUndefinedByte : UpdateBlind ctlUndefinedByte := by
  intro s t h
  obtain ⟨g, e, he⟩ := updateBlind_freeStreamEffect s t h
  exact ⟨g, e, by rw [ctlUndefinedByte, he]; rfl⟩

/-- A pixel is written, never read back: the cell it lands in is chosen by the registers (R126). -/
theorem receptionBlind_ctlPixel (p : Half) : ReceptionBlind (ctlPixel p) := by
  rintro s _ ⟨g, e, rfl⟩
  exact .ite (.ite (.ok ⟨_, _, rfl⟩) (.error _)) (.ok ⟨_, _, rfl⟩)

theorem receptionBlind_ctlStreamByte (b : Byte) : ReceptionBlind (ctlStreamByte b) := by
  rintro s _ ⟨g, e, rfl⟩
  refine .ite ?_ (.ok (updateBlind_ctlUndefinedByte _ _ (gramApart_set s g e)))
  cases hhi : s.ctl.hi with
  | none => exact .ok ⟨_, _, rfl⟩
  | some h => exact receptionBlind_ctlPixel (be16 h b) _ _ (gramApart_set s g e)

/-- A data byte goes where the command context sends it (R121-R128, R132). -/
theorem receptionBlind_ctlData (b : Byte) : ReceptionBlind (ctlData b) := by
  rintro s _ ⟨g, e, rfl⟩
  have h := gramApart_set s g e
  exact .ite (.ok (updateBlind_ctlWindowByte b setColumns _ _ h))
    (.ite (.ok (updateBlind_ctlWindowByte b setRows _ _ h))
      (.ite (receptionBlind_ctlStreamByte b _ _ h)
        (.ite (.ok (updateBlind_ctlColmodByte b _ _ h)) (.ite (.ok (updateBlind_ctlMadctlByte b _ _ h)) (.ok h)))))

theorem receptionBlind_ctlDatas (bs : List Byte) : ReceptionBlind (ctlDatas bs) := by
  induction bs with
  | nil => exact fun s t h => .ok h
  | cons b bs ih =>
    intro s t h
    have hb := receptionBlind_ctlData b s t h
    simp only [ctlDatas]
    generalize ctlData b s = r, ctlData b t = r' at hb
    cases hb with
    | ok h' => exact ih _ _ h'
    | error f => exact .error f

theorem receptionBlind_ctlFrame (code : Byte) (payload : List Byte) : ReceptionBlind (ctlFrame code payload) :=
  fun s t h => receptionBlind_ctlDatas payload _ _ (updateBlind_ctlCommand code s t h)

/-! ## Parts of an operation -/

section parts
variable {α β : Type}

theorem blind_pure (a : α) : Blind (pure a) := fun _ _ h => .ok h

theorem blind_raise (c : StCode) (r : Option Reason) (d : Detail) : Blind (α := α) (raise c r d) := fun _ _ h => .error h

theorem blind_faultWith (f : Fault) : Blind (α := α) (faultWith f) := fun _ _ h => .error h

theorem blind_update {f : State → State} (hf : UpdateBlind f) : Blind (update f) := fun s t h => .ok (hf s t h)

theorem blind_look {f : State → α} (hf : ∀ s g e, f { s with gram := g, gramEpoch := e } = f s) : Blind (look f) := by
  rintro s _ ⟨g, e, rfl⟩
  rw [look_apply, look_apply, hf s g e]
  exact .ok (gramApart_set s g e)

theorem Blind.bind {x : Op β} {f : β → Op α} (hx : Blind x) (hf : ∀ b, Blind (f b)) : Blind (x >>= f) := by
  intro s t h
  have hst := hx s t h
  rw [op_bind, op_bind]
  generalize x s = r, x t = r' at hst
  cases hst with
  | ok h' => exact hf _ _ _ h'
  | error h' => exact .error h'

theorem blind_ite {p : Prop} [Decidable p] {x y : Op α} (hx : Blind x) (hy : Blind y) :
    Blind (if p then x else y) := by
  split
  · exact hx
  · exact hy

end parts

/-! ## Updates of TFTCORE's own (R100, R107, R108, R181, R216) -/

theorem updateBlind_selectBus : UpdateBlind selectBus := .of_set fun _ _ _ => ⟨_, _, rfl⟩

theorem updateBlind_releaseBus : UpdateBlind releaseBus := .of_set fun _ _ _ => ⟨_, _, rfl⟩

theorem updateBlind_driveCmd : UpdateBlind driveCmd := .of_set fun _ _ _ => ⟨_, _, rfl⟩

theorem updateBlind_driveData : UpdateBlind driveData := .of_set fun _ _ _ => ⟨_, _, rfl⟩

theorem updateBlind_waitFor (d : Delay) : UpdateBlind (waitFor d) := .of_set fun _ _ _ => ⟨_, _, rfl⟩

theorem updateBlind_setSeq (q : Seq) : UpdateBlind (setSeq q) := .of_set fun _ _ _ => ⟨_, _, rfl⟩

theorem updateBlind_record (ev : Event) : UpdateBlind (record ev) := .of_set fun _ _ _ => ⟨_, _, rfl⟩

theorem updateBlind_setDrvState (d : DrvState) : UpdateBlind fun s => { s with drvState := d } :=
  .of_set fun _ _ _ => ⟨_, _, rfl⟩

theorem updateBlind_setStreamOpen (o : Bool) : UpdateBlind fun s => { s with streamOpen := o } :=
  .of_set fun _ _ _ => ⟨_, _, rfl⟩

theorem updateBlind_freeWindowRegs : UpdateBlind freeWindowRegs := .of_set fun _ _ _ => ⟨_, _, rfl⟩

theorem updateBlind_initFailed : UpdateBlind initFailed := .of_set fun _ _ _ => ⟨_, _, rfl⟩

theorem updateBlind_closeStream : UpdateBlind closeStream := by
  have hclose : UpdateBlind fun s => { ctlHalfPixel (releaseBus s) with streamOpen := false } :=
    (updateBlind_setStreamOpen false).comp (updateBlind_ctlHalfPixel.comp updateBlind_releaseBus)
  rintro s _ ⟨g, e, rfl⟩
  have h := gramApart_set s g e
  exact .ite (hclose _ _ h) h

theorem updateBlind_closeSource : UpdateBlind closeSource := .of_set fun _ _ _ => .ite ⟨_, _, rfl⟩ ⟨_, _, rfl⟩

theorem updateBlind_initPulse : UpdateBlind initPulse := .of_set fun _ _ _ => .ite ⟨_, _, rfl⟩ ⟨_, _, rfl⟩

theorem updateBlind_returnOk (r : Option Half) : UpdateBlind (returnOk r) := .of_set fun _ _ _ => ⟨_, _, rfl⟩

theorem updateBlind_reportStatus (info : StInfo) (c : StCode) : UpdateBlind (reportStatus info c) :=
  .of_set fun _ _ _ => ⟨_, _, rfl⟩

theorem updateBlind_takeAbort (info : StInfo) (c : StCode) : UpdateBlind (takeAbort info c) := by
  intro s t h
  obtain ⟨g, e, he⟩ := updateBlind_closeSource _ _ (updateBlind_closeStream s t h)
  refine .ite (updateBlind_reportStatus info c s t h) ⟨g, e, ?_⟩
  rw [he]

/-! ## Transfers and frames (R12, R102-R106) -/

/-- A byte sent before the line is first driven is a command or data, by a free value (R24, 93 I11). -/
theorem deliver_unknown {b : Byte} {s : State} (h : s.dc = .unknown) :
    deliver b s = if Config.freeBool s.freeCtr 0 then .ok (ctlCommand b { s with freeCtr := s.freeCtr + 1 })
      else ctlData b { s with freeCtr := s.freeCtr + 1 } := by
  simp [deliver, h]

theorem receptionBlind_deliver (b : Byte) : ReceptionBlind (deliver b) := by
  intro s t h
  cases hdc : s.dc with
  | cmd =>
    rw [deliver_cmd hdc, deliver_cmd (h.dc.trans hdc)]
    exact .ok (updateBlind_ctlCommand b s t h)
  | data =>
    rw [deliver_data hdc, deliver_data (h.dc.trans hdc)]
    exact receptionBlind_ctlData b s t h
  | unknown =>
    rw [deliver_unknown hdc, deliver_unknown (h.dc.trans hdc)]
    obtain ⟨g, e, rfl⟩ := h
    have hdrawn := gramApart_set { s with freeCtr := s.freeCtr + 1 } g e
    exact .ite (.ok (updateBlind_ctlCommand b _ _ hdrawn)) (receptionBlind_ctlData b _ _ hdrawn)

theorem blind_transfer (b : Byte) (answeredOk received : Bool) : Blind (transfer b answeredOk received) := by
  intro s t h
  have hrec := updateBlind_record (.tx b answeredOk) s t h
  have hdel := receptionBlind_deliver b _ _ hrec
  refine .ite ?_ (.ok hrec)
  generalize deliver b (record (.tx b answeredOk) s) = r, deliver b (record (.tx b answeredOk) t) = r' at hdel
  cases hdel with
  | ok h' => exact .ok h'
  | error f => exact .error hrec

/-- `Tx(b)` takes the same answer in both runs (R8, R12). -/
theorem blind_tx (b : Byte) : Blind (tx b) := by
  rintro s _ ⟨g, e, rfl⟩
  have hafter : GramApart (afterTx s) (afterTx { s with gram := g, gramEpoch := e }) := by
    unfold afterTx
    cases s.txIn <;> exact ⟨_, _, rfl⟩
  exact blind_transfer b (nextTx s).isOk (nextTx s).isReceived _ _ hafter

theorem blind_requireIdleBus : Blind requireIdleBus := by
  rintro s _ ⟨g, e, rfl⟩
  exact .ite (.error (gramApart_set s g e)) (.ok (gramApart_set s g e))

theorem blind_raiseTransfer {α : Type} (k : FrameKind) (c : Option Byte) (n : Nat) :
    Blind (α := α) (raiseTransfer k c n) := blind_raise _ _ _

theorem blind_cmdFrame (c : Byte) : Blind (cmdFrame c) :=
  blind_requireIdleBus.bind fun _ => (blind_update updateBlind_driveCmd).bind fun _ =>
    (blind_update updateBlind_selectBus).bind fun _ => (blind_tx c).bind fun _ =>
      (blind_update updateBlind_releaseBus).bind fun _ => blind_ite (blind_pure _) (blind_raiseTransfer _ _ _)

theorem blind_sendBytes (frame : FrameKind) {close : State → State} (hclose : UpdateBlind close) (n : Nat)
    (bs : List Byte) : Blind (sendBytes frame close n bs) := by
  induction bs generalizing n with
  | nil => exact blind_pure _
  | cons b bs ih =>
    exact (blind_tx b).bind fun _ => blind_ite (ih _) ((blind_update hclose).bind fun _ => blind_raiseTransfer _ _ _)

theorem blind_dataFrame (bs : List Byte) : Blind (dataFrame bs) :=
  blind_requireIdleBus.bind fun _ => blind_ite (blind_faultWith _) <|
    (blind_update updateBlind_driveData).bind fun _ => (blind_update updateBlind_selectBus).bind fun _ =>
      (blind_sendBytes _ updateBlind_releaseBus _ _).bind fun _ => blind_update updateBlind_releaseBus

theorem blind_cmdWithPayload (c : Byte) (bs : List Byte) : Blind (cmdWithPayload c bs) :=
  (blind_cmdFrame c).bind fun _ => blind_ite (blind_pure _) (blind_dataFrame bs)

theorem blind_openStream : Blind openStream :=
  blind_requireIdleBus.bind fun _ => (blind_look fun _ _ _ => rfl).bind fun _ =>
    (blind_update updateBlind_driveCmd).bind fun _ => (blind_update updateBlind_selectBus).bind fun _ =>
      (blind_tx _).bind fun _ => blind_ite
        ((blind_update updateBlind_driveData).bind fun _ => blind_update (updateBlind_setStreamOpen true))
        ((blind_update updateBlind_releaseBus).bind fun _ => blind_raiseTransfer _ _ _)

theorem blind_append (bs : List Byte) : Blind (append bs) :=
  (blind_look fun _ _ _ => rfl).bind fun _ => blind_ite (blind_sendBytes _ updateBlind_closeStream _ _) (blind_faultWith _)

/-! ## The driver (R141-R148) -/

theorem blind_requireReady : Blind requireReady := by
  rintro s _ ⟨g, e, rfl⟩
  exact .ite (.ok (gramApart_set s g e)) (.error (gramApart_set s g e))

theorem blind_requireInitLegal : Blind requireInitLegal := by
  rintro s _ ⟨g, e, rfl⟩
  exact .ite (.ok (gramApart_set s g e)) (.error (gramApart_set s g e))

theorem blind_requireWindow (x0 y0 x1 y1 : Half) : Blind (requireWindow x0 y0 x1 y1) := by
  rintro s _ ⟨g, e, rfl⟩
  exact .ite (.ok (gramApart_set s g e)) (.error (gramApart_set s g e))

theorem blind_requireStream : Blind requireStream := by
  rintro s _ ⟨g, e, rfl⟩
  exact .ite (.ok (gramApart_set s g e)) (.error (gramApart_set s g e))

theorem blind_busClaim : Blind busClaim := by
  rintro s _ ⟨g, e, rfl⟩
  unfold busClaim
  cases s.claimIn <;> exact .ok ⟨_, _, rfl⟩

/-- A step of INIT that fails frees the whole controller, GRAM with it (R219). -/
theorem blind_initStep (n : Nat) (q : Seq) {body : Op Unit} (hbody : Blind body) : Blind (initStep n q body) := by
  intro s t h
  have hend := hbody _ _ (updateBlind_setSeq q s t h)
  unfold initStep
  generalize body (setSeq q s) = r, body (setSeq q t) = r' at hend
  cases hend with
  | ok h' => exact .ok h'
  | @error stop _ _ h' =>
    cases stop with
    | fault f => exact .error h'
    | raise c rs d =>
      cases c with
      | transferError => exact .error (updateBlind_initFailed _ _ h')
      | _ => exact .error h'

theorem blind_commandThenSettle (code : Config → Byte) (payload : Config → List Byte) (d : Delay) :
    Blind (commandThenSettle code payload d) :=
  (blind_look fun _ _ _ => rfl).bind fun _ => (blind_look fun _ _ _ => rfl).bind fun _ =>
    (blind_cmdWithPayload _ _).bind fun _ => blind_update (updateBlind_waitFor d)

theorem blind_initClaim : Blind initClaim :=
  (blind_update (updateBlind_setSeq _)).bind fun _ => blind_busClaim.bind fun _ =>
    blind_ite (blind_pure _) ((blind_update updateBlind_initFailed).bind fun _ => blind_raise _ _ _)

theorem blind_initSequence : Blind initSequence :=
  (blind_initStep _ _ (blind_commandThenSettle _ _ _)).bind fun _ =>
    (blind_update (updateBlind_setDrvState _)).bind fun _ =>
      (blind_initStep _ _ (blind_commandThenSettle _ _ _)).bind fun _ =>
        (blind_initStep _ _ (blind_commandThenSettle _ _ _)).bind fun _ =>
          (blind_initStep _ _ (blind_commandThenSettle _ _ _)).bind fun _ =>
            blind_initStep _ _ (blind_commandThenSettle _ _ _)

theorem blind_initBody : Blind initBody :=
  blind_requireInitLegal.bind fun _ => (blind_update updateBlind_closeStream).bind fun _ =>
    blind_initClaim.bind fun _ => (blind_update (updateBlind_setDrvState _)).bind fun _ =>
      (blind_update updateBlind_initPulse).bind fun _ => blind_initSequence.bind fun _ =>
        (blind_update (updateBlind_setDrvState _)).bind fun _ => blind_pure _

theorem blind_windowFrames (x0 y0 x1 y1 : Half) : Blind (windowFrames x0 y0 x1 y1) :=
  (blind_look fun _ _ _ => rfl).bind fun _ => (blind_look fun _ _ _ => rfl).bind fun _ =>
    (blind_cmdWithPayload _ _).bind fun _ => (blind_cmdWithPayload _ _).bind fun _ => blind_openStream

theorem blind_windowBody (x0 y0 x1 y1 : Half) : Blind (windowBody x0 y0 x1 y1) := by
  intro s t h
  have hend := blind_windowFrames x0 y0 x1 y1 _ _ (updateBlind_closeStream s t h)
  unfold windowBody
  generalize windowFrames x0 y0 x1 y1 (closeStream s) = r, windowFrames x0 y0 x1 y1 (closeStream t) = r' at hend
  cases hend with
  | ok h' => exact .ok h'
  | @error stop _ _ h' =>
    cases stop with
    | raise c rs d => exact .error (updateBlind_freeWindowRegs _ _ h')
    | fault f => exact .error h'

theorem blind_setWindowBody (x0 y0 x1 y1 : Half) : Blind (setWindowBody x0 y0 x1 y1) :=
  blind_requireReady.bind fun _ => (blind_requireWindow _ _ _ _).bind fun _ =>
    (blind_windowBody _ _ _ _).bind fun _ => blind_pure _

theorem blind_writePixelsBody (bytes : List Byte) : Blind (writePixelsBody bytes) :=
  blind_requireReady.bind fun _ => blind_requireStream.bind fun _ => (blind_append _).bind fun _ => blind_pure _

theorem blind_endWriteBody : Blind endWriteBody :=
  blind_requireReady.bind fun _ => (blind_update updateBlind_closeStream).bind fun _ => blind_pure _

theorem blind_fillLoop (color : Half) (total fuel n : Nat) : Blind (fillLoop color total fuel n) := by
  induction fuel generalizing n with
  | zero => exact blind_ite (blind_faultWith _) (blind_pure _)
  | succ fuel ih =>
    exact blind_ite
      ((blind_update (updateBlind_setSeq _)).bind fun _ => (blind_look fun _ _ _ => rfl).bind fun _ =>
        (blind_append _).bind fun _ => ih _)
      (blind_pure _)

theorem blind_fillBody (color : Half) : Blind (fillBody color) :=
  blind_requireReady.bind fun _ => (blind_update (updateBlind_setSeq _)).bind fun _ =>
    (blind_look fun _ _ _ => rfl).bind fun _ => (blind_look fun _ _ _ => rfl).bind fun _ =>
      (blind_windowBody _ _ _ _).bind fun _ => (blind_look fun _ _ _ => rfl).bind fun _ =>
        (blind_fillLoop _ _ _ _).bind fun _ => (blind_update (updateBlind_setSeq _)).bind fun _ =>
          (blind_update updateBlind_closeStream).bind fun _ => blind_pure _

theorem blind_convertBody (r g b : Byte) : Blind (convertBody r g b) :=
  (blind_look fun _ _ _ => rfl).bind fun _ => blind_pure _

/-! ## DECODE_BMP (R181-R192) -/

theorem bufferCells_setGram (s : State) (g : List Host.Cell) (e : Nat) (b : Buffer) :
    bufferCells { s with gram := g, gramEpoch := e } b = bufferCells s b := by cases b <;> rfl

theorem bufferWritten_setGram (s : State) (g : List Host.Cell) (e : Nat) (b : Buffer) :
    bufferWritten { s with gram := g, gramEpoch := e } b = bufferWritten s b := by cases b <;> rfl

theorem updateBlind_setBuffer (b : Buffer) (m : List Host.Cell) (n : Nat) : UpdateBlind (setBuffer b m n) := by
  rintro s _ ⟨g, e, rfl⟩
  cases b <;> exact ⟨_, _, rfl⟩

theorem blind_writeBuffer (b : Buffer) (i : Nat) (bytes : List Byte) : Blind (writeBuffer b i bytes) := by
  rintro s _ ⟨g, e, rfl⟩
  unfold writeBuffer
  rw [bufferCells_setGram s g e, bufferWritten_setGram s g e]
  exact .ite (.ok (updateBlind_setBuffer _ _ _ _ _ (gramApart_set s g e))) (.error (gramApart_set s g e))

theorem blind_readBuffer (b : Buffer) (i n : Nat) : Blind (readBuffer b i n) := by
  rintro s _ ⟨g, e, rfl⟩
  unfold readBuffer
  rw [bufferCells_setGram s g e, bufferWritten_setGram s g e]
  refine .ite ?_ (.error (gramApart_set s g e))
  cases memReadBytes (bufferCells s b) i n with
  | ok bytes => exact .ok (gramApart_set s g e)
  | error a => exact .error (gramApart_set s g e)

theorem blind_readBufferByte (b : Buffer) (i : Nat) : Blind (readBufferByte b i) := by
  rintro s _ ⟨g, e, rfl⟩
  unfold readBufferByte
  rw [bufferCells_setGram s g e, bufferWritten_setGram s g e]
  refine .ite ?_ (.error (gramApart_set s g e))
  cases memRead (bufferCells s b) i with
  | some v => exact .ok (gramApart_set s g e)
  | none => exact .error (gramApart_set s g e)

theorem blind_readDec {α : Type} (r : DecReg) {f : State → α}
    (hf : ∀ s g e, f { s with gram := g, gramEpoch := e } = f s) : Blind (readDec r f) := by
  rintro s _ ⟨g, e, rfl⟩
  unfold readDec
  rw [hf s g e]
  exact .ite (.ok (gramApart_set s g e)) (.error (gramApart_set s g e))

/-- A write of decoder registers (R29). -/
theorem blind_writeDec {r : DecReg} {f : State → State}
    (hf : ∀ s g e, GramApart (writeDec r f s) (writeDec r f { s with gram := g, gramEpoch := e })) :
    Blind (update (writeDec r f)) := blind_update (.of_set hf)

theorem blind_srcOpen (hd : Byte) : Blind (srcOpen hd) := by
  rintro s _ ⟨g, e, rfl⟩
  unfold srcOpen
  cases s.openIn <;> exact .ok ⟨_, _, rfl⟩

theorem blind_srcRead (off n : Nat) : Blind (srcRead off n) := by
  rintro s _ ⟨g, e, rfl⟩
  unfold srcRead
  cases s.readIn <;> exact .ok ⟨_, _, rfl⟩

theorem blind_sampleCancel : Blind sampleCancel := by
  rintro s _ ⟨g, e, rfl⟩
  unfold sampleCancel
  cases s.cancelIn <;> exact .ok ⟨_, _, rfl⟩

theorem blind_readHeader : Blind readHeader := by
  refine (blind_look fun _ _ _ => rfl).bind fun n => (blind_srcRead 0 n).bind fun ans => ?_
  cases ans with
  | fail => exact blind_raise _ _ _
  | short bs => exact blind_raise _ _ _
  | ok bs => exact blind_writeBuffer _ _ _

theorem blind_checkSignature : Blind checkSignature :=
  (blind_readBufferByte _ _).bind fun _ => (blind_readBufferByte _ _).bind fun _ =>
    blind_ite (blind_raise _ _ _) (blind_pure _)

theorem blind_headerWord (off : Nat) : Blind (headerWord off) :=
  (blind_readBufferByte _ _).bind fun _ => (blind_readBufferByte _ _).bind fun _ =>
    (blind_readBufferByte _ _).bind fun _ => (blind_readBufferByte _ _).bind fun _ => blind_pure _

theorem blind_headerHalf (off : Nat) : Blind (headerHalf off) :=
  (blind_readBufferByte _ _).bind fun _ => (blind_readBufferByte _ _).bind fun _ => blind_pure _

theorem blind_extractFields : Blind extractFields :=
  (blind_headerWord _).bind fun _ => .bind (blind_writeDec fun _ _ _ => ⟨_, _, rfl⟩) fun _ =>
    (blind_headerWord _).bind fun _ => .bind (blind_writeDec fun _ _ _ => ⟨_, _, rfl⟩) fun _ =>
      (blind_headerHalf _).bind fun _ => blind_writeDec fun _ _ _ => ⟨_, _, rfl⟩

theorem blind_checkDepth : Blind checkDepth :=
  (blind_readDec _ fun _ _ _ => rfl).bind fun _ => blind_ite (blind_raise _ _ _) (blind_pure _)

theorem blind_clipImage : Blind clipImage :=
  (blind_readDec _ fun _ _ _ => rfl).bind fun _ => (blind_readDec _ fun _ _ _ => rfl).bind fun _ =>
    .bind (blind_writeDec fun _ _ _ => ⟨_, _, rfl⟩) fun _ => blind_writeDec fun _ _ _ => ⟨_, _, rfl⟩

theorem blind_checkSize : Blind checkSize :=
  (blind_readDec _ fun _ _ _ => rfl).bind fun _ => (blind_readDec _ fun _ _ _ => rfl).bind fun _ =>
    (blind_readDec _ fun _ _ _ => rfl).bind fun _ => (blind_readDec _ fun _ _ _ => rfl).bind fun _ =>
      blind_ite (blind_raise _ _ _) (blind_pure _)

theorem blind_setRowSize : Blind setRowSize :=
  (blind_readDec _ fun _ _ _ => rfl).bind fun _ => blind_writeDec fun _ _ _ => ⟨_, _, rfl⟩

theorem blind_checkImage : Blind checkImage :=
  (blind_update (updateBlind_setSeq _)).bind fun _ => blind_readHeader.bind fun _ =>
    (blind_update (updateBlind_setSeq _)).bind fun _ => blind_checkSignature.bind fun _ =>
      blind_extractFields.bind fun _ => blind_checkDepth.bind fun _ => blind_clipImage.bind fun _ =>
        blind_checkSize.bind fun _ => blind_setRowSize

theorem blind_readRow (r : Nat) : Blind (readRow r) := by
  refine (blind_readDec _ fun _ _ _ => rfl).bind fun _ => (blind_readDec _ fun _ _ _ => rfl).bind fun _ =>
    (blind_readDec _ fun _ _ _ => rfl).bind fun _ => (blind_look fun _ _ _ => rfl).bind fun _ =>
      (blind_srcRead _ _).bind fun ans => ?_
  cases ans with
  | fail => exact blind_raise _ _ _
  | short bs => exact blind_raise _ _ _
  | ok bs => exact blind_writeBuffer _ _ _

theorem blind_convertPixelAt (i : Nat) : Blind (convertPixelAt i) :=
  (blind_readBufferByte _ _).bind fun _ => (blind_readBufferByte _ _).bind fun _ =>
    (blind_readBufferByte _ _).bind fun _ => (blind_look fun _ _ _ => rfl).bind fun _ => blind_writeBuffer _ _ _

theorem blind_convertPixels (n i : Nat) : Blind (convertPixels n i) := by
  induction n generalizing i with
  | zero => exact blind_pure _
  | succ n ih => exact (blind_convertPixelAt i).bind fun _ => ih _

theorem blind_handOff : Blind handOff :=
  (blind_readDec _ fun _ _ _ => rfl).bind fun _ => (blind_readBuffer _ _ _).bind fun _ => blind_append _

theorem blind_doRow (r : Nat) : Blind (doRow r) :=
  (blind_update (updateBlind_setSeq _)).bind fun _ => .bind (blind_writeDec fun _ _ _ => ⟨_, _, rfl⟩) fun _ =>
    (blind_readRow r).bind fun _ =>
      ((blind_readDec _ fun _ _ _ => rfl).bind fun _ => blind_convertPixels _ _).bind fun _ => blind_handOff

theorem blind_cancelPoint (r : Nat) : Blind (cancelPoint r) :=
  blind_sampleCancel.bind fun _ => blind_ite (blind_raise _ _ _) (blind_pure _)

theorem blind_rowLoop (n r : Nat) : Blind (rowLoop n r) := by
  induction n, r using rowLoop.induct with
  | case1 r => exact blind_pure _
  | case2 r => exact blind_doRow r
  | case3 n r ih => exact (blind_doRow r).bind fun _ => (blind_cancelPoint r).bind fun _ => ih

theorem blind_drawImage : Blind drawImage :=
  (blind_update (updateBlind_setSeq _)).bind fun _ => (blind_readDec _ fun _ _ _ => rfl).bind fun _ =>
    (blind_readDec _ fun _ _ _ => rfl).bind fun _ => (blind_windowBody _ _ _ _).bind fun _ => blind_rowLoop _ _

theorem blind_openSource (h : Byte) : Blind (openSource h) :=
  (blind_update (updateBlind_setSeq _)).bind fun _ => (blind_srcOpen h).bind fun _ =>
    blind_ite (blind_update (.of_set fun _ _ _ => ⟨_, _, rfl⟩)) (blind_raise _ _ _)

theorem blind_decodeBmpBody (h : Byte) : Blind (decodeBmpBody h) :=
  blind_requireReady.bind fun _ => (blind_openSource h).bind fun _ => blind_checkImage.bind fun _ =>
    blind_drawImage.bind fun _ => (blind_update (updateBlind_setSeq _)).bind fun _ =>
      (blind_update updateBlind_closeStream).bind fun _ => (blind_update updateBlind_closeSource).bind fun _ =>
        blind_pure _

/-! ## Whole instructions -/

theorem sameButGram_next {s t : State} (h : GramApart s t) : SameButGram (.next s) (.next t) := by
  obtain ⟨g, e, rfl⟩ := h
  exact ⟨g, e, rfl⟩

/-- An operation whose body does not see GRAM ends alike in both runs, in its return and in its abort (R13, R216). -/
theorem sameButGram_runOperation (op : OpName) (src : Option Byte) {body : Op (Option Half)} (hbody : Blind body)
    {s t : State} (h : GramApart s t) : SameButGram (runOperation op src body s) (runOperation op src body t) := by
  have hend := hbody s t h
  unfold runOperation
  generalize body s = r, body t = r' at hend
  cases hend with
  | ok h' => exact sameButGram_next (updateBlind_returnOk _ _ _ h')
  | @error stop _ _ h' =>
    cases stop with
    | raise c rs d => exact sameButGram_next (updateBlind_takeAbort _ _ _ _ h')
    | fault f => exact rfl

theorem sameButGram_runFrame (code : Byte) (payload : List Byte) {s t : State} (h : GramApart s t) :
    SameButGram (runFrame code payload s) (runFrame code payload t) := by
  have hframe := receptionBlind_ctlFrame code payload s t h
  unfold runFrame
  generalize ctlFrame code payload s = r, ctlFrame code payload t = r' at hframe
  cases hframe with
  | ok h' => exact sameButGram_next h'
  | error f => exact rfl

/-- Settles O16: no part of an operation and nothing the controller does with a byte carries a difference in GRAM on. -/
theorem gramNeverRead : Obligations.GramNeverRead := by
  intro i s g e
  have h := gramApart_set s g e
  cases i with
  | init => exact sameButGram_runOperation .init none blind_initBody h
  | setWindow x0 y0 x1 y1 => exact sameButGram_runOperation .setWindow none (blind_setWindowBody x0 y0 x1 y1) h
  | writePixels bytes => exact sameButGram_runOperation .writePixels none (blind_writePixelsBody bytes) h
  | endWrite => exact sameButGram_runOperation .endWrite none blind_endWriteBody h
  | fill color => exact sameButGram_runOperation .fill none (blind_fillBody color) h
  | convert r g b => exact sameButGram_runOperation .convert none (blind_convertBody r g b) h
  | decodeBmp hd => exact sameButGram_runOperation .decodeBmp (some hd) (blind_decodeBmpBody hd) h
  | swreset => exact sameButGram_runFrame s.cfg.cmdSwreset [] h
  | slpout => exact sameButGram_runFrame s.cfg.cmdSlpout [] h
  | caset x0 x1 => exact sameButGram_runFrame s.cfg.cmdCaset (windowPayload x0 x1) h
  | raset y0 y1 => exact sameButGram_runFrame s.cfg.cmdRaset (windowPayload y0 y1) h
  | ramwr stream => exact sameButGram_runFrame s.cfg.cmdRamwr stream h
  | colmod v => exact sameButGram_runFrame s.cfg.cmdColmod [v] h
  | madctl v => exact sameButGram_runFrame s.cfg.cmdMadctl [v] h
  | dispon => exact sameButGram_runFrame s.cfg.cmdDispon [] h

end Sys2Proof.Proofs
end

section
/-! PROOFS. RAMWR into a window that starts outside the panel (spec/20_memory.md R50, R52). -/

namespace Sys2Proof.Proofs

open Sys2Proof.Machine Sys2Proof.Safety

/-- The memory-write context before the first pixel (R126): no payload counted, no pixel written, `hi` the half pixel. -/
def ramwrContext (hi : Option Byte) (s : State) : State :=
  { s with ctl := { s.ctl with cmd := some s.cfg.cmdRamwr, argi := 0, wp := 0, hi := hi } }

/-- With no window payload about to be lost, a command byte ends the old context with its half pixel alone (R131). -/
theorem ctlCutShort_wholeContext {s : State} (h : WholeContext s) : ctlCutShort s = s := by
  unfold ctlCutShort
  split
  · next hargi =>
    rw [if_neg fun hc => h ⟨hargi, .inl hc⟩, if_neg fun hr => h ⟨hargi, .inr hr⟩]
  · rfl

theorem ctlCommand_ramwr {s : State} (hw : s.cfg.wf = true) (h : WholeContext s) :
    ctlCommand s.cfg.cmdRamwr s = ramwrContext none s := by
  obtain ⟨⟨hreset, hslpout, -⟩, -⟩ := wf_codes hw
  simp [ctlCommand, ctlEndContext, ctlCutShort_wholeContext h, ctlBegin, ctlEffect, hreset.symm, hslpout.symm,
    ramwrContext]

/-- In the memory-write context a data byte is a byte of the stream (R126). -/
theorem ctlData_ramwr {b : Byte} {s : State} (hw : s.cfg.wf = true) (h : s.ctl.cmd = some s.cfg.cmdRamwr) :
    ctlData b s = ctlStreamByte b s := by
  obtain ⟨⟨-, -, -, -, hcaset, hraset, -⟩, -⟩ := wf_codes hw
  simp [ctlData, h, hcaset.symm, hraset.symm]

/-- A pixel of the window with no cell in the panel stops the controller (R50, log 11). -/
theorem ctlPixel_outside {p : Half} {s : State} (hk : s.ctl.wp < windowCount s.ctl)
    (hout : inPanel s.cfg (pixelX s.ctl s.ctl.wp) (pixelY s.ctl s.ctl.wp) = false) :
    ctlPixel p s = .error (.gramOutsidePanel (pixelX s.ctl s.ctl.wp) (pixelY s.ctl s.ctl.wp)) := by
  simp [ctlPixel, hk, hout]

theorem windowCount_pos (c : Ctl) : 0 < windowCount c := Nat.mul_pos (Nat.succ_pos _) (Nat.succ_pos _)

theorem pixelX_zero (c : Ctl) : pixelX c 0 = c.xs.toNat := by simp [pixelX]

theorem pixelY_zero (c : Ctl) : pixelY c 0 = c.ys.toNat := by simp [pixelY]

/-- The first word after RAMWR makes the window's first pixel, which has no cell (R126). -/
theorem ctlDatas_firstWord_outside (h l : Byte) (stream : List Byte) {s : State} (hw : s.cfg.wf = true)
    (hd : streamDefined s = true) (hout : inPanel s.cfg s.ctl.xs.toNat s.ctl.ys.toNat = false) :
    ctlDatas (h :: l :: stream) (ramwrContext none s) = .error (.gramOutsidePanel s.ctl.xs.toNat s.ctl.ys.toNat) := by
  have hhigh : ctlData h (ramwrContext none s) = .ok (ramwrContext (some h) s) := by
    rw [ctlData_ramwr (s := ramwrContext none s) hw rfl]
    exact if_pos hd
  have hlow : ctlData l (ramwrContext (some h) s) = ctlPixel (be16 h l) (ramwrContext (some h) s) := by
    rw [ctlData_ramwr (s := ramwrContext (some h) s) hw rfl]
    exact if_pos hd
  have hx : pixelX (ramwrContext (some h) s).ctl 0 = s.ctl.xs.toNat := pixelX_zero _
  have hy : pixelY (ramwrContext (some h) s).ctl 0 = s.ctl.ys.toNat := pixelY_zero _
  have hpixel : ctlPixel (be16 h l) (ramwrContext (some h) s) =
      .error (.gramOutsidePanel s.ctl.xs.toNat s.ctl.ys.toNat) := by
    rw [← hx, ← hy] at hout ⊢
    exact ctlPixel_outside (windowCount_pos _) hout
  simp only [ctlDatas, hhigh, hlow, hpixel]

/-- Settles O59: the first word is a pixel of the window's first cell, and that cell is no cell of GRAM. -/
theorem ramwrOutsidePanelFaults : Obligations.RamwrOutsidePanelFaults := by
  intro h l stream s hw hwhole hd hout
  have hcell : inPanel s.cfg s.ctl.xs.toNat s.ctl.ys.toNat = false := decide_eq_false (by omega)
  have hframe := ctlDatas_firstWord_outside h l stream hw hd hcell
  rw [← ctlCommand_ramwr hw hwhole] at hframe
  simp only [exec, execRamwr, runFrame, ctlFrame, hframe]

end Sys2Proof.Proofs
end

section
/-! PROOFS. The statements of spec/30_encoding.md on the decoder and on what a step refuses (R74, R75, R85-R89). -/

namespace Sys2Proof.Proofs

open Sys2Proof.Machine Sys2Proof.Safety

/-! ## Taking bytes of one line (R85, R86) -/

/-- Request bytes that wait are taken whole, whatever follows. -/
theorem takeReq_reqBytes (bs : List Byte) (ws : List WireByte) :
    takeReq bs.length (reqBytes bs ++ ws) = some (bs, ws) := by
  induction bs with
  | nil => rfl
  | cons b bs ih => exact congrArg (Option.map fun p => (b :: p.1, p.2)) ih

/-- Fewer request bytes than asked for are not taken. -/
theorem takeReq_short {n : Nat} {bs : List Byte} (h : bs.length < n) : takeReq n (reqBytes bs) = none := by
  induction bs generalizing n with
  | nil =>
    obtain ⟨m, rfl⟩ := Nat.exists_eq_add_one.2 h
    rfl
  | cons b bs ih =>
    obtain ⟨m, rfl⟩ := Nat.exists_eq_add_one.2 (Nat.zero_lt_of_lt h)
    exact congrArg (Option.map fun p => (b :: p.1, p.2)) (ih (Nat.lt_of_succ_lt_succ h))

/-- A pixel stream runs until the next byte that is not data (R85). -/
theorem leadingData_map (bs : List Byte) {ws : List WireByte} (h : ∀ b vs, ws ≠ .data b :: vs) :
    leadingData (bs.map .data ++ ws) = (bs, ws) := by
  induction bs with
  | nil =>
    cases ws with
    | nil => rfl
    | cons w vs =>
      cases w with
      | data b => exact absurd rfl (h b vs)
      | req b => rfl
      | cmd b => rfl
  | cons b bs ih => simp [leadingData, ih]

/-- The four bytes of a u32 make it again (R86). -/
theorem be32_extract (v : Word) :
    be32 (v.extractLsb' 24 8) (v.extractLsb' 16 8) (v.extractLsb' 8 8) (v.extractLsb' 0 8) = v := by
  unfold be32
  ext i hi
  simp only [BitVec.getElem_append, BitVec.getElem_extractLsb']
  grind

theorem reqBytes_append (bs cs : List Byte) : reqBytes (bs ++ cs) = reqBytes bs ++ reqBytes cs := List.map_append

/-! ## Host requests (R86-R88) -/

/-- The op byte of a host operation (R87). The commands have none. -/
def opByte : Instr → Byte
  | .init => 0x01
  | .setWindow _ _ _ _ => 0x02
  | .writePixels _ => 0x03
  | .endWrite => 0x04
  | .fill _ => 0x05
  | .convert _ _ _ => 0x06
  | .decodeBmp _ => 0x07
  | _ => 0x00

/-- The operand bytes of a host operation (R86, R87). -/
def operandBytes : Instr → List Byte
  | .setWindow x0 y0 x1 y1 => be16Bytes x0 ++ be16Bytes y0 ++ be16Bytes x1 ++ be16Bytes y1
  | .writePixels bytes => be32Bytes (BitVec.ofNat 32 bytes.length) ++ bytes
  | .fill color => be16Bytes color
  | .convert r g b => [r, g, b]
  | .decodeBmp h => [h]
  | _ => []

theorem encode_hostOp (c : Config) {i : Instr} (hi : isHostOp i = true) :
    encode c i = reqBytes (opByte i :: operandBytes i) := by
  cases i <;> first | rfl | cases hi

/-- The length field of a well-formed WRITE_PIXELS reads back (R86). -/
theorem toNat_lengthField {bytes : List Byte} (h : wellFormed (.writePixels bytes) = true) :
    (BitVec.ofNat 32 bytes.length).toNat = bytes.length :=
  Nat.mod_eq_of_lt (of_decide_eq_true h)

/-- Behind a whole length field the data bytes are taken by their number (R86). -/
theorem decodeWritePixels_whole {n : Word} {ws rest : List WireByte} {bytes : List Byte}
    (h : takeReq n.toNat ws = some (bytes, rest)) :
    decodeWritePixels (reqBytes (be32Bytes n) ++ ws) = .instr (.writePixels bytes) rest := by
  simp [decodeWritePixels, be32Bytes, reqBytes, takeReq, be32_extract, h]

theorem decodeWritePixels_cut {n : Word} {ws : List WireByte} (h : takeReq n.toNat ws = none) :
    decodeWritePixels (reqBytes (be32Bytes n) ++ ws) = cutRequest 0x03 (reqBytes (be32Bytes n) ++ ws) := by
  simp [decodeWritePixels, be32Bytes, reqBytes, takeReq, be32_extract, h]

/-- A host operation's operands are read back, whatever follows them (R86, R87). -/
theorem decodeRequest_operands {i : Instr} (hi : isHostOp i = true) (hw : wellFormed i = true) (ws : List WireByte) :
    decodeRequest (opByte i) (reqBytes (operandBytes i) ++ ws) = .instr i ws := by
  cases i with
  | init => rfl
  | setWindow x0 y0 x1 y1 =>
    show decodeSetWindow (reqBytes (be16Bytes x0 ++ be16Bytes y0 ++ be16Bytes x1 ++ be16Bytes y1) ++ ws) = _
    simp [decodeSetWindow, be16Bytes, reqBytes, takeReq]
  | writePixels bytes =>
    show decodeWritePixels (reqBytes (be32Bytes (BitVec.ofNat 32 bytes.length) ++ bytes) ++ ws) = _
    rw [reqBytes_append, List.append_assoc]
    exact decodeWritePixels_whole (by rw [toNat_lengthField hw, takeReq_reqBytes])
  | endWrite => rfl
  | fill color =>
    show decodeFill (reqBytes (be16Bytes color) ++ ws) = _
    simp [decodeFill, be16Bytes, reqBytes, takeReq]
  | convert r g b => rfl
  | decodeBmp h => rfl
  | _ => cases hi

theorem decodeSetWindow_cut {ws : List WireByte} (h : takeReq 8 ws = none) :
    decodeSetWindow ws = cutRequest 0x02 ws := by simp [decodeSetWindow, h]

theorem decodeFill_cut {ws : List WireByte} (h : takeReq 2 ws = none) : decodeFill ws = cutRequest 0x05 ws := by
  simp [decodeFill, h]

theorem decodeConvert_cut {ws : List WireByte} (h : takeReq 3 ws = none) :
    decodeConvert ws = cutRequest 0x06 ws := by simp [decodeConvert, h]

theorem decodeDecodeBmp_cut {ws : List WireByte} (h : takeReq 1 ws = none) :
    decodeDecodeBmp ws = cutRequest 0x07 ws := by simp [decodeDecodeBmp, h]

theorem cutRequest_reqBytes (op : Byte) (bs : List Byte) : cutRequest op (reqBytes bs) = .truncated op [] := by
  have h := afterRequest_reqBytes bs []
  rw [List.append_nil] at h
  rw [cutRequest, h]
  rfl

/-- A length field cut short, or data bytes fewer than it says (R86, 93 I15). -/
theorem decodeWritePixels_short {bytes : List Byte} {m : Nat} (hw : wellFormed (.writePixels bytes) = true)
    (hm : m < (operandBytes (.writePixels bytes)).length) :
    decodeWritePixels (reqBytes ((operandBytes (.writePixels bytes)).take m)) = .truncated 0x03 [] := by
  have hlen : (operandBytes (.writePixels bytes)).length = 4 + bytes.length := List.length_append
  rw [← cutRequest_reqBytes 0x03 ((operandBytes (.writePixels bytes)).take m)]
  by_cases h4 : m < 4
  · rw [decodeWritePixels, takeReq_short ((List.length_take_le m _).trans_lt h4)]
  · obtain ⟨k, rfl⟩ := Nat.exists_eq_add_of_le (Nat.not_lt.1 h4)
    have htake : (operandBytes (.writePixels bytes)).take (4 + k) =
        be32Bytes (BitVec.ofNat 32 bytes.length) ++ bytes.take k :=
      List.take_length_add_append (l₁ := be32Bytes (BitVec.ofNat 32 bytes.length)) k
    rw [htake, reqBytes_append]
    refine decodeWritePixels_cut (takeReq_short ?_)
    rw [toNat_lengthField hw, List.length_take]
    omega

/-- A request that ends before its operands do is cut short, and all its bytes are taken (R86, 93 I15). -/
theorem decodeRequest_short {i : Instr} {m : Nat} (hi : isHostOp i = true) (hw : wellFormed i = true)
    (hm : m < (operandBytes i).length) :
    decodeRequest (opByte i) (reqBytes ((operandBytes i).take m)) = .truncated (opByte i) [] := by
  have hnone : takeReq (operandBytes i).length (reqBytes ((operandBytes i).take m)) = none :=
    takeReq_short (by rwa [List.length_take_of_le hm.le])
  cases i with
  | setWindow x0 y0 x1 y1 => exact (decodeSetWindow_cut hnone).trans (cutRequest_reqBytes _ _)
  | writePixels bytes => exact decodeWritePixels_short hw hm
  | fill color => exact (decodeFill_cut hnone).trans (cutRequest_reqBytes _ _)
  | convert r g b => exact (decodeConvert_cut hnone).trans (cutRequest_reqBytes _ _)
  | decodeBmp h => exact (decodeDecodeBmp_cut hnone).trans (cutRequest_reqBytes _ _)
  | init => cases hm
  | endWrite => cases hm
  | _ => cases hi

/-- An op byte that is none of the seven is reserved (R88). -/
theorem decodeRequest_reserved {b : Byte} (h : b = 0x00 ∨ 0x08 ≤ b.toNat) (ws : List WireByte) :
    decodeRequest b ws = .reservedOp b ws := by
  rcases h with rfl | h
  · rfl
  · unfold decodeRequest
    split
    case h_8 => rfl
    all_goals omega

/-! ## Command frames (R74, R75, R85, R89) -/

/-- What each of the eight codes of a legal configuration stands for (R74): no two of them are the same code (R6). -/
theorem decodeFrame_codes {c : Config} (hw : c.wf = true) (ws : List WireByte) :
    decodeFrame c c.cmdSwreset ws = .instr .swreset ws ∧
    decodeFrame c c.cmdSlpout ws = .instr .slpout ws ∧
    decodeFrame c c.cmdColmod ws = decodeByteFrame c.cmdColmod .colmod ws ∧
    decodeFrame c c.cmdMadctl ws = decodeByteFrame c.cmdMadctl .madctl ws ∧
    decodeFrame c c.cmdCaset ws = decodeWindowFrame c.cmdCaset .caset ws ∧
    decodeFrame c c.cmdRaset ws = decodeWindowFrame c.cmdRaset .raset ws ∧
    decodeFrame c c.cmdRamwr ws = .instr (.ramwr (leadingData ws).1) (leadingData ws).2 ∧
    decodeFrame c c.cmdDispon ws = .instr .dispon ws := by
  obtain ⟨-, -, -, -, -, -, hn⟩ := of_decide_eq_true hw
  simp only [Config.commandCodes, List.nodup_cons, List.mem_cons, not_or, List.not_mem_nil] at hn
  unfold decodeFrame
  grind

theorem decodeFrame_unknown {c : Config} {b : Byte} (h : b ∉ c.commandCodes) (ws : List WireByte) :
    decodeFrame c b ws = .unknownCommand b := by
  simp only [Config.commandCodes, List.mem_cons, not_or] at h
  simp [decodeFrame, h]

theorem decodeWindowFrame_payload (code : Byte) (k : Half → Half → Instr) (x y : Half) (ws : List WireByte) :
    decodeWindowFrame code k ((windowPayload x y).map .data ++ ws) = .instr (k x y) ws := by
  simp [decodeWindowFrame, windowPayload, be16Bytes, takeData]

/-- A command frame is read back with what follows, which a pixel stream needs to be no data byte (R85). -/
theorem decode_encode_command {c : Config} {i : Instr} {rest : List WireByte} (hw : c.wf = true)
    (hi : isHostOp i = false) (hr : ∀ b ws, rest ≠ .data b :: ws) : decode c (encode c i ++ rest) = .instr i rest := by
  cases i with
  | swreset =>
    obtain ⟨h, -⟩ := decodeFrame_codes hw rest
    exact h
  | slpout =>
    obtain ⟨-, h, -⟩ := decodeFrame_codes hw rest
    exact h
  | colmod v =>
    obtain ⟨-, -, h, -⟩ := decodeFrame_codes hw (.data v :: rest)
    exact h
  | madctl v =>
    obtain ⟨-, -, -, h, -⟩ := decodeFrame_codes hw (.data v :: rest)
    exact h
  | caset x0 x1 =>
    obtain ⟨-, -, -, -, h, -⟩ := decodeFrame_codes hw ((windowPayload x0 x1).map .data ++ rest)
    exact h.trans (decodeWindowFrame_payload _ _ x0 x1 rest)
  | raset y0 y1 =>
    obtain ⟨-, -, -, -, -, h, -⟩ := decodeFrame_codes hw ((windowPayload y0 y1).map .data ++ rest)
    exact h.trans (decodeWindowFrame_payload _ _ y0 y1 rest)
  | ramwr stream =>
    obtain ⟨-, -, -, -, -, -, h, -⟩ := decodeFrame_codes hw (stream.map .data ++ rest)
    rw [leadingData_map stream hr] at h
    exact h
  | dispon =>
    obtain ⟨-, -, -, -, -, -, -, h⟩ := decodeFrame_codes hw rest
    exact h
  | _ => cases hi

/-! ## The statements -/

/-- Settles O1: a host operation by its op byte and operands, a command by its code and payload. -/
theorem decodeInvertsEncode : Obligations.DecodeInvertsEncode := by
  intro c i rest hc hw hr
  cases hi : isHostOp i with
  | true =>
    rw [encode_hostOp c hi]
    exact decodeRequest_operands hi hw rest
  | false => exact decode_encode_command hc hi hr

/-- A step that finds a request waiting takes what the decoder reads there (R63, R86). -/
theorem step_request {s : State} {b : Byte} {ws : List WireByte} (hn : s.newInstance = none) (hw : s.cfg.wf = true)
    (hd : s.busDriver = .core) (hin : s.input = .req b :: ws) : step s = runWaiting s := by
  simp [step, hn, hw, portRefusal, hin, hd, BusDriver.admits]

/-- Settles O4: the decoder finds the request cut short, and a refused request changes the status alone. -/
theorem truncatedRequestRefused : Obligations.TruncatedRequestRefused := by
  intro s i n hn hc hd hi hw hpos hlt hin
  obtain ⟨m, rfl⟩ := Nat.exists_eq_add_one.2 hpos
  rw [encode_hostOp s.cfg hi] at hlt hin
  have hm : m < (operandBytes i).length := by simpa [reqBytes] using hlt
  have hin : s.input = .req (opByte i) :: reqBytes ((operandBytes i).take m) := by
    rw [hin, reqBytes, ← List.map_take]
    rfl
  have hfetch : fetch s = .truncated (opByte i) [] := by
    rw [fetch, hin]
    exact decodeRequest_short hi hw hm
  exact ⟨illegalOperation (opByte i) (consume [] s),
    by rw [step_request hn hc hd hin, runWaiting, hfetch], rfl⟩

/-- Settles O2, by running the decoder on each of the words. -/
theorem wordsOfTheSpec : Obligations.WordsOfTheSpec :=
  ⟨rfl, rfl, rfl, rfl, rfl, rfl, rfl, rfl, rfl, rfl⟩

/-- Settles O3: the decoder finds the op byte reserved, and a refused request changes the status alone. -/
theorem reservedOpByte : Obligations.ReservedOpByte := by
  intro s b ws hn hc hd hin hb
  have hfetch : fetch s = .reservedOp b ws := by
    rw [fetch, hin]
    exact decodeRequest_reserved hb ws
  exact ⟨illegalOperation b (consume ws s), by rw [step_request hn hc hd hin, runWaiting, hfetch], rfl⟩

/-- Settles O5: the controller by itself has no meaning for the code, and TFTCORE admits no byte of another agent. -/
theorem unknownCommandRefused : Obligations.UnknownCommandRefused := by
  refine ⟨fun s b ws hn hc hd hin hb => ?_, fun s b ws hn hc hd hin => ?_⟩
  · have hfetch : fetch s = .unknownCommand b := by
      rw [fetch, hin]
      exact decodeFrame_unknown hb ws
    simp [step, hn, hc, portRefusal, hin, hd, BusDriver.admits, runWaiting, hfetch]
  · rcases step_core_cases hn hc hd with ⟨he, -⟩ | ⟨b', ws', he, -⟩ | h
    · simp [he] at hin
    · simp [he] at hin
    · exact h

end Sys2Proof.Proofs
end

section
/-! PROOFS. TFTCORE emits no command byte outside the eight codes (spec/30_encoding.md R89): what the bus carries while
the command/data line is in command mode is kept lawful by every part of an operation. -/

namespace Sys2Proof.Proofs

open Sys2Proof.Machine Sys2Proof.Safety

/-! ## The bus view of a state -/

/-- The newest-first bus view holds the same items. -/
theorem commandsClosed_iff {s : State} :
    CommandsClosed s ↔ ∀ b ok, .byte .cmd b ok ∈ busViewRev s.cfg s.trace → b ∈ s.cfg.commandCodes := by
  simp only [CommandsClosed, State.busView, List.mem_reverse]

/-- Under the configuration `c`, `dc` is the level the line was last driven to (R24), and every command byte so far is
one of the eight (R89). It holds inside a frame too. -/
structure Lawful (c : Config) (s : State) : Prop where
  cfg : s.cfg = c
  line : LineAgrees s
  codes : CommandsClosed s

/-- What holds between the frames of an operation: the bus is lawful, and a stream alone holds it (R25). -/
structure LawfulIdle (c : Config) (s : State) : Prop extends Lawful c s where
  bus : BusByStream s

/-- `t` is `s` with nothing new on the bus, the command/data line where it was. -/
structure SameBus (s t : State) : Prop where
  cfg : t.cfg = s.cfg
  dc : t.dc = s.dc
  mode : modeAfter s.cfg t.trace = modeAfter s.cfg s.trace
  view : busViewRev s.cfg t.trace = busViewRev s.cfg s.trace

section lawful
variable {c : Config} {s t : State}

theorem Lawful.sameBus (h : Lawful c s) (hst : SameBus s t) : Lawful c t := by
  obtain ⟨hcfg, hdc, hmode, hview⟩ := hst
  refine ⟨hcfg.trans h.cfg, ?_, ?_⟩
  · rw [LineAgrees, hcfg, hdc, hmode]
    exact h.line
  · rw [commandsClosed_iff, hcfg, hview]
    exact commandsClosed_iff.1 h.codes

theorem LawfulIdle.sameBus (h : LawfulIdle c s) (hst : SameBus s t) (hb : t.busSel = s.busSel)
    (ho : t.streamOpen = s.streamOpen) : LawfulIdle c t := by
  refine ⟨h.toLawful.sameBus hst, ?_⟩
  rw [BusByStream, hb, ho, hst.dc]
  exact h.bus

theorem sameBus_of_onlyController (h : OnlyController s t) : SameBus s t := by
  refine ⟨onlyController_cfg h, onlyController_dc h, ?_, ?_⟩ <;> rw [onlyController_trace h]

theorem LawfulIdle.onlyController (h : LawfulIdle c s) (hst : OnlyController s t) : LawfulIdle c t :=
  h.sameBus (sameBus_of_onlyController hst) (onlyController_busSel hst) (onlyController_streamOpen hst)

/-! ## Lines -/

theorem Lawful.selectBus (h : Lawful c s) : Lawful c (Machine.selectBus s) := h.sameBus ⟨rfl, rfl, rfl, if_pos rfl⟩

theorem Lawful.driveCmd (h : Lawful c s) : Lawful c (Machine.driveCmd s) := ⟨h.cfg, if_pos rfl, h.codes⟩

theorem Lawful.driveData (h : Lawful c s) : Lawful c (Machine.driveData s) :=
  ⟨h.cfg, if_neg (level_opposite_ne _), h.codes⟩

/-- A release is an item of the bus view, and no command byte (R40). -/
theorem Lawful.releaseBus (h : Lawful c s) : Lawful c (Machine.releaseBus s) := by
  refine ⟨h.cfg, h.line, commandsClosed_iff.2 fun b ok hmem => commandsClosed_iff.1 h.codes b ok ?_⟩
  have hview : busViewRev s.cfg (Machine.releaseBus s).trace = .desel :: busViewRev s.cfg s.trace :=
    if_neg (level_opposite_ne _)
  rw [releaseBus_cfg, hview] at hmem
  simpa using hmem

/-- A byte answered on the bus is lawful where it is no command byte or one of the eight. -/
theorem Lawful.transferred {b : Byte} {ok : Bool} (h : Lawful c s) (hb : s.dc = .cmd → b ∈ c.commandCodes) :
    Lawful c (record (.tx b ok) s) := by
  refine ⟨h.cfg, h.line, commandsClosed_iff.2 fun b' ok' hmem => ?_⟩
  have hview : busViewRev s.cfg (record (.tx b ok) s).trace = .byte s.dc b ok :: busViewRev s.cfg s.trace :=
    congrArg (fun m => BusItem.byte m b ok :: busViewRev s.cfg s.trace) h.line
  rw [record_cfg, hview] at hmem
  rcases List.mem_cons.1 hmem with he | hmem
  · injection he with hdc hbyte
    subst hbyte
    exact h.cfg ▸ hb hdc.symm
  · exact commandsClosed_iff.1 h.codes b' ok' hmem

/-- CLOSE_STREAM (R107). -/
theorem lawfulIdle_closeStream (h : LawfulIdle c s) : LawfulIdle c (closeStream s) := by
  have hbus := (settles_closeStream (i := .init) s).bus h.bus
  rcases closeStream_cases s with ⟨-, e⟩ | ⟨-, g, k, n, e⟩
  · rwa [e]
  · refine ⟨?_, hbus⟩
    rw [e]
    exact h.toLawful.releaseBus.sameBus ⟨rfl, rfl, rfl, rfl⟩

theorem lawfulIdle_closeSource (h : LawfulIdle c s) : LawfulIdle c (closeSource s) := by
  unfold closeSource
  split
  · exact h.sameBus ⟨rfl, rfl, rfl, rfl⟩ rfl rfl
  · exact h

/-- The reset line is no part of the bus (R40, R108). -/
theorem lawfulIdle_initPulse (h : LawfulIdle c s) : LawfulIdle c (initPulse s) := by
  unfold initPulse
  split
  · rw [resetPulse_eq]
    exact h.sameBus ⟨rfl, rfl, rfl, rfl⟩ rfl rfl
  · exact h

/-- The abort sequence (R216). -/
theorem lawfulIdle_takeAbort (info : StInfo) (code : StCode) (h : LawfulIdle c s) :
    LawfulIdle c (takeAbort info code s) := by
  unfold takeAbort
  split
  · exact h.sameBus ⟨rfl, rfl, rfl, rfl⟩ rfl rfl
  · exact (lawfulIdle_closeSource (lawfulIdle_closeStream h)).sameBus ⟨rfl, rfl, rfl, rfl⟩ rfl rfl

end lawful

/-! ## Parts of an operation -/

/-- `x` keeps the bus lawful and held by a stream alone, where it returns and where it raises. -/
def KeepsLaw {α : Type} (c : Config) (x : Op α) : Prop :=
  ∀ s, LawfulIdle c s → Leaves x (fun _ t => LawfulIdle c t) (fun _ t => LawfulIdle c t) s

section parts
variable {α β : Type} {c : Config}

theorem keepsLaw_pure (a : α) : KeepsLaw c (pure a) := fun _ h => h

theorem keepsLaw_look (f : State → α) : KeepsLaw c (look f) := fun _ h => h

theorem keepsLaw_raise (code : StCode) (r : Option Reason) (d : Detail) : KeepsLaw (α := α) c (raise code r d) :=
  fun _ h => h

theorem keepsLaw_faultWith (f : Fault) : KeepsLaw (α := α) c (faultWith f) := fun _ _ => trivial

theorem keepsLaw_update {f : State → State} (hf : ∀ s, LawfulIdle c s → LawfulIdle c (f s)) :
    KeepsLaw c (update f) := hf

/-- An update off the bus. -/
theorem keepsLaw_quiet {f : State → State} (hf : ∀ s, SameBus s (f s)) (hb : ∀ s, (f s).busSel = s.busSel)
    (ho : ∀ s, (f s).streamOpen = s.streamOpen) : KeepsLaw c (update f) :=
  fun s h => h.sameBus (hf s) (hb s) (ho s)

theorem KeepsLaw.bind {x : Op β} {f : β → Op α} (hx : KeepsLaw c x) (hf : ∀ b, KeepsLaw c (f b)) :
    KeepsLaw c (x >>= f) := by
  intro s h
  rw [leaves_bind]
  exact (hx s h).mono (fun b t ht => hf b t ht) fun _ _ h => h

/-- What a part reads of the configuration, it reads of `c`. -/
theorem keepsLaw_lookCfg {f : Config → β} {k : β → Op α} (hk : KeepsLaw c (k (f c))) :
    KeepsLaw c ((look fun s => f s.cfg) >>= k) := by
  intro s h
  rw [leaves_bind, leaves_look, h.cfg]
  exact hk s h

theorem keepsLaw_ite {p : Prop} [Decidable p] {x y : Op α} (hx : KeepsLaw c x) (hy : KeepsLaw c y) :
    KeepsLaw c (if p then x else y) := by
  split
  · exact hx
  · exact hy

theorem keepsLaw_setSeq (q : Seq) : KeepsLaw c (update (setSeq q)) :=
  keepsLaw_quiet (fun _ => ⟨rfl, rfl, rfl, rfl⟩) (fun _ => rfl) fun _ => rfl

theorem keepsLaw_closeStream : KeepsLaw c (update closeStream) := keepsLaw_update fun _ => lawfulIdle_closeStream

/-! ## The checks at the start of an operation -/

theorem keepsLaw_requireReady : KeepsLaw c requireReady := fun _ h => leaves_requireReady (fun _ => h) h

theorem keepsLaw_requireInitLegal : KeepsLaw c requireInitLegal := fun _ h => leaves_requireInitLegal h h

theorem keepsLaw_requireStream : KeepsLaw c requireStream := fun _ h => leaves_requireStream (fun _ => h) h

theorem keepsLaw_requireWindow (x0 y0 x1 y1 : Half) : KeepsLaw c (requireWindow x0 y0 x1 y1) :=
  fun _ h => leaves_requireWindow (fun _ => h) h

/-! ## Transfers and frames (R12, R102-R106) -/

/-- `Tx(b)` in data mode, or of one of the eight codes. -/
theorem leaves_tx_lawful {b : Byte} {Q : Bool → State → Prop} {E : StCode → State → Prop} {s : State}
    (h : Lawful c s) (hb : s.dc = .cmd → b ∈ c.commandCodes)
    (hQ : ∀ ok t, Lawful c t → OnlyPorts s t → Q ok t) : Leaves (tx b) Q E s := by
  rcases tx_cases b s with ⟨ok, t, e, -, -, ht⟩ | ⟨f, t, e⟩
  · rw [Leaves, e]
    refine hQ ok t ?_ ?_
    · exact (Lawful.transferred (s := { s with txIn := t.txIn }) (h.sameBus ⟨rfl, rfl, rfl, rfl⟩) hb).sameBus
        (sameBus_of_onlyController ht)
    · exact OnlyPorts.trans (t := record (.tx b ok) { s with txIn := t.txIn }) rfl (onlyPorts_of_onlyController ht)
  · rw [Leaves, e]
    trivial

/-- The bytes of a frame or stream, in data mode (R103, R106). -/
theorem leaves_sendBytes_lawful {frame : FrameKind} {close : State → State} {bs : List Byte} {i : Nat}
    {Q : Unit → State → Prop} {E : StCode → State → Prop} {s : State} (h : Lawful c s) (hd : s.dc = .data)
    (hQ : ∀ t, Lawful c t → OnlyPorts s t → Q () t)
    (hE : ∀ t, Lawful c t → OnlyPorts s t → E .transferError (close t)) :
    Leaves (sendBytes frame close i bs) Q E s := by
  induction bs generalizing i s with
  | nil => exact hQ s h rfl
  | cons b bs ih =>
    simp only [sendBytes, leaves_bind]
    refine leaves_tx_lawful h (by simp [hd]) fun ok t ht hp => leaves_ite (fun _ => ?_) fun _ => ?_
    · exact ih ht (hp.dc.trans hd) (fun u hu p => hQ u hu (hp.trans p)) fun u hu p => hE u hu (hp.trans p)
    · simp only [leaves_bind, leaves_update, leaves_raiseTransfer]
      exact hE t ht hp

/-- A frame that found the bus idle and releases it leaves it idle (R101). -/
theorem lawfulIdle_released {s t : State} (hs : BusByStream s) (hb : s.busSel = false) (ht : Lawful c t)
    (ho : t.streamOpen = s.streamOpen) : LawfulIdle c (releaseBus t) := by
  have hclosed : t.streamOpen = false := ho.trans (hs.1.symm.trans hb)
  exact ⟨ht.releaseBus, hclosed.symm, fun h => absurd h (by simp [hclosed])⟩

/-- CMD_FRAME of one of the eight codes (R102). -/
theorem keepsLaw_cmdFrame {b : Byte} (hb : b ∈ c.commandCodes) : KeepsLaw c (cmdFrame b) := by
  intro s h
  simp only [cmdFrame, leaves_bind, leaves_update]
  refine leaves_requireIdleBus fun hidle => leaves_tx_lawful h.driveCmd.selectBus (fun _ => hb) fun ok t ht hp => ?_
  have hrel : LawfulIdle c (releaseBus t) := lawfulIdle_released h.bus hidle ht hp.streamOpen
  exact leaves_ite (fun _ => hrel) fun _ => hrel

/-- DATA_FRAME (R103). -/
theorem keepsLaw_dataFrame (bs : List Byte) : KeepsLaw c (dataFrame bs) := by
  intro s h
  simp only [dataFrame, leaves_bind]
  refine leaves_requireIdleBus fun hidle => leaves_ite (fun _ => trivial) fun _ => ?_
  simp only [leaves_bind, leaves_update]
  have hrel : ∀ t, Lawful c t → OnlyPorts (selectBus (driveData s)) t → LawfulIdle c (releaseBus t) :=
    fun t ht hp => lawfulIdle_released h.bus hidle ht hp.streamOpen
  exact leaves_sendBytes_lawful h.driveData.selectBus rfl hrel hrel

/-- CMD_WITH_PAYLOAD of one of the eight codes (R104). -/
theorem keepsLaw_cmdWithPayload {b : Byte} (hb : b ∈ c.commandCodes) (bs : List Byte) :
    KeepsLaw c (cmdWithPayload b bs) :=
  (keepsLaw_cmdFrame hb).bind fun _ => keepsLaw_ite (keepsLaw_pure _) (keepsLaw_dataFrame bs)

/-- OPEN_STREAM (R105): the stream holds the bus, in data mode. -/
theorem keepsLaw_openStream : KeepsLaw c openStream := by
  intro s h
  simp only [openStream, leaves_bind, leaves_look, leaves_update]
  have hcode : s.cfg.cmdRamwr ∈ c.commandCodes := by simp [h.cfg, Config.commandCodes]
  refine leaves_requireIdleBus fun hidle => leaves_tx_lawful h.driveCmd.selectBus (fun _ => hcode) fun ok t ht hp =>
    leaves_ite (fun _ => ?_) fun _ => ?_
  · simp only [leaves_bind, leaves_update]
    exact ⟨ht.driveData.sameBus ⟨rfl, rfl, rfl, rfl⟩, hp.busSel, fun _ => rfl⟩
  · simp only [leaves_bind, leaves_update, leaves_raiseTransfer]
    exact lawfulIdle_released h.bus hidle ht hp.streamOpen

/-- APPEND (R106): an open stream is in data mode (R25). -/
theorem keepsLaw_append (bs : List Byte) : KeepsLaw c (append bs) := by
  intro s h
  simp only [append, leaves_bind, leaves_look]
  refine leaves_ite (fun ho => ?_) fun _ => trivial
  have hidle : ∀ t, Lawful c t → OnlyPorts s t → LawfulIdle c t := by
    intro t ht hp
    refine ⟨ht, ?_⟩
    rw [BusByStream, hp.busSel, hp.streamOpen, hp.dc]
    exact h.bus
  exact leaves_sendBytes_lawful h.toLawful (h.bus.2 ho) hidle fun t ht hp => lawfulIdle_closeStream (hidle t ht hp)

/-! ## The driver (R141-R148) -/

/-- CASET, RASET and RAMWR are three of the eight (R74, R143). -/
theorem keepsLaw_windowFrames (x0 y0 x1 y1 : Half) : KeepsLaw c (windowFrames x0 y0 x1 y1) :=
  keepsLaw_lookCfg <| keepsLaw_lookCfg <|
    (keepsLaw_cmdWithPayload (by simp [Config.commandCodes]) _).bind fun _ =>
      (keepsLaw_cmdWithPayload (by simp [Config.commandCodes]) _).bind fun _ => keepsLaw_openStream

theorem keepsLaw_windowBody (x0 y0 x1 y1 : Half) : KeepsLaw c (windowBody x0 y0 x1 y1) := by
  intro s h
  have hframes := keepsLaw_windowFrames x0 y0 x1 y1 _ (lawfulIdle_closeStream h)
  unfold Leaves windowBody
  unfold Leaves at hframes
  rcases hf : windowFrames x0 y0 x1 y1 (closeStream s) with ⟨u, t⟩ | ⟨⟨code, r, d⟩ | f, t⟩
  · rwa [hf] at hframes
  · rw [hf] at hframes
    exact hframes.onlyController (freeWindowRegs_only t)
  · trivial

theorem keepsLaw_fillLoop (color : Half) (total fuel sent : Nat) : KeepsLaw c (fillLoop color total fuel sent) := by
  induction fuel generalizing sent with
  | zero => exact keepsLaw_ite (keepsLaw_faultWith _) (keepsLaw_pure _)
  | succ fuel ih =>
    refine keepsLaw_ite ?_ (keepsLaw_pure _)
    exact (keepsLaw_setSeq _).bind fun _ => (keepsLaw_look _).bind fun _ => (keepsLaw_append _).bind fun _ => ih _

theorem keepsLaw_drvState (d : DrvState) : KeepsLaw c (update fun s => { s with drvState := d }) :=
  keepsLaw_quiet (fun _ => ⟨rfl, rfl, rfl, rfl⟩) (fun _ => rfl) fun _ => rfl

theorem lawfulIdle_initFailed {s : State} (h : LawfulIdle c s) : LawfulIdle c (initFailed s) :=
  h.sameBus ⟨rfl, rfl, rfl, rfl⟩ rfl rfl

/-- A step of INIT fails where its body does (R141, R215). -/
theorem keepsLaw_initStep {body : Op Unit} (hbody : KeepsLaw c body) (n : Nat) (q : Seq) :
    KeepsLaw c (initStep n q body) := by
  intro s h
  have hb := hbody _ (keepsLaw_setSeq q s h)
  unfold Leaves initStep
  unfold Leaves at hb
  rcases hx : body (setSeq q s) with ⟨u, t⟩ | ⟨⟨code, r, d⟩ | f, t⟩
  · rwa [hx] at hb
  · rw [hx] at hb
    cases code with
    | transferError => exact lawfulIdle_initFailed hb
    | _ => exact hb
  · trivial

/-- A command of INIT with its settle delay (R110, R141). -/
theorem keepsLaw_initCommand {code : Config → Byte} (hc : code c ∈ c.commandCodes) (payload : Config → List Byte)
    (d : Delay) (n : Nat) (q : Seq) : KeepsLaw c (initStep n q (commandThenSettle code payload d)) := by
  have hbody : KeepsLaw c (commandThenSettle code payload d) :=
    keepsLaw_lookCfg <| (keepsLaw_look _).bind fun _ => (keepsLaw_cmdWithPayload hc _).bind fun _ =>
      keepsLaw_quiet (fun _ => ⟨rfl, rfl, rfl, rfl⟩) (fun _ => rfl) fun _ => rfl
  exact keepsLaw_initStep hbody n q

/-- The commands of INIT are the other five of the eight (R74, R141). -/
theorem keepsLaw_initSequence : KeepsLaw c initSequence :=
  (keepsLaw_initCommand (by simp [Config.commandCodes]) _ _ _ _).bind fun _ => (keepsLaw_drvState _).bind fun _ =>
    (keepsLaw_initCommand (by simp [Config.commandCodes]) _ _ _ _).bind fun _ =>
      (keepsLaw_initCommand (by simp [Config.commandCodes]) _ _ _ _).bind fun _ =>
        (keepsLaw_initCommand (by simp [Config.commandCodes]) _ _ _ _).bind fun _ =>
          keepsLaw_initCommand (by simp [Config.commandCodes]) _ _ _ _

theorem keepsLaw_busClaim : KeepsLaw c busClaim := by
  intro s h
  unfold Leaves busClaim
  cases s.claimIn <;> exact h.sameBus ⟨rfl, rfl, rfl, rfl⟩ rfl rfl

theorem keepsLaw_initClaim : KeepsLaw c initClaim :=
  (keepsLaw_setSeq _).bind fun _ => keepsLaw_busClaim.bind fun _ =>
    keepsLaw_ite (keepsLaw_pure _) ((keepsLaw_update fun _ => lawfulIdle_initFailed).bind fun _ => keepsLaw_raise _ _ _)

/-! ## DECODE_BMP (R181-R192) -/

/-- A read answers what the register holds, or stops at a fault of the model (93 I14). -/
theorem leaves_readDec {r : DecReg} {f : State → α} {Q : α → State → Prop} {E : StCode → State → Prop} {s : State}
    (hQ : Q (f s) s) : Leaves (readDec r f) Q E s := by
  unfold Leaves readDec
  by_cases hr : r ∈ s.decWritten
  · simpa [hr] using hQ
  · simp [hr]

theorem leaves_readBufferByte {b : Buffer} {n : Nat} {Q : Byte → State → Prop} {E : StCode → State → Prop} {s : State}
    (hQ : ∀ v, Q v s) : Leaves (readBufferByte b n) Q E s := by
  unfold Leaves readBufferByte
  by_cases hn : n < bufferWritten s b
  · cases hv : memRead (bufferCells s b) n with
    | some v => simpa [hn, hv] using hQ v
    | none => simp [hn]
  · simp [hn]

theorem leaves_readBuffer {b : Buffer} {n m : Nat} {Q : List Byte → State → Prop} {E : StCode → State → Prop}
    {s : State} (hQ : ∀ bytes, Q bytes s) : Leaves (readBuffer b n m) Q E s := by
  unfold Leaves readBuffer
  by_cases hn : n + m ≤ max n (bufferWritten s b)
  · cases hv : memReadBytes (bufferCells s b) n m with
    | ok bytes => simpa [hn, hv] using hQ bytes
    | error a => simp [hn]
  · simp [hn]

theorem keepsLaw_readDec (r : DecReg) (f : State → α) : KeepsLaw c (readDec r f) := fun _ h => leaves_readDec h

theorem keepsLaw_readBufferByte (b : Buffer) (n : Nat) : KeepsLaw c (readBufferByte b n) :=
  fun _ h => leaves_readBufferByte fun _ => h

theorem keepsLaw_readBuffer (b : Buffer) (n m : Nat) : KeepsLaw c (readBuffer b n m) :=
  fun _ h => leaves_readBuffer fun _ => h

theorem keepsLaw_writeBuffer (b : Buffer) (n : Nat) (bytes : List Byte) : KeepsLaw c (writeBuffer b n bytes) := by
  intro s h
  by_cases hn : n + bytes.length ≤ bufferSize s.cfg b
  · rw [Leaves, writeBuffer_ok hn]
    cases b <;> exact h.sameBus ⟨rfl, rfl, rfl, rfl⟩ rfl rfl
  · simp [Leaves, writeBuffer, hn]

/-- A write of the decoder's side alone (R29). -/
theorem keepsLaw_decoderSide {f : State → State} (hf : ∀ s, DecoderSide s (f s)) : KeepsLaw c (update f) := by
  intro s h
  have hframe := (hf s).frame
  have hst : SameBus s (f s) := by constructor <;> rw [hframe]
  exact h.sameBus hst (by rw [hframe]) (by rw [hframe])

theorem keepsLaw_srcOpen (hd : Byte) : KeepsLaw c (srcOpen hd) := by
  intro s h
  unfold Leaves srcOpen
  cases s.openIn <;> exact h.sameBus ⟨rfl, rfl, rfl, rfl⟩ rfl rfl

theorem keepsLaw_srcRead (off n : Nat) : KeepsLaw c (srcRead off n) := by
  intro s h
  unfold Leaves srcRead
  cases s.readIn <;> exact h.sameBus ⟨rfl, rfl, rfl, rfl⟩ rfl rfl

theorem keepsLaw_sampleCancel : KeepsLaw c sampleCancel := by
  intro s h
  unfold Leaves sampleCancel
  cases s.cancelIn <;> exact h.sameBus ⟨rfl, rfl, rfl, rfl⟩ rfl rfl

theorem keepsLaw_openSource (hd : Byte) : KeepsLaw c (openSource hd) :=
  (keepsLaw_setSeq _).bind fun _ => (keepsLaw_srcOpen hd).bind fun _ =>
    keepsLaw_ite (keepsLaw_quiet (fun _ => ⟨rfl, rfl, rfl, rfl⟩) (fun _ => rfl) fun _ => rfl) (keepsLaw_raise _ _ _)

theorem keepsLaw_readHeader : KeepsLaw c readHeader := by
  refine (keepsLaw_look _).bind fun n => (keepsLaw_srcRead 0 n).bind fun ans => ?_
  cases ans with
  | fail => exact keepsLaw_raise _ _ _
  | short bs => exact keepsLaw_raise _ _ _
  | ok bs => exact keepsLaw_writeBuffer _ _ _

theorem keepsLaw_checkSignature : KeepsLaw c checkSignature :=
  (keepsLaw_readBufferByte _ _).bind fun _ => (keepsLaw_readBufferByte _ _).bind fun _ =>
    keepsLaw_ite (keepsLaw_raise _ _ _) (keepsLaw_pure _)

theorem keepsLaw_headerWord (off : Nat) : KeepsLaw c (headerWord off) :=
  (keepsLaw_readBufferByte _ _).bind fun _ => (keepsLaw_readBufferByte _ _).bind fun _ =>
    (keepsLaw_readBufferByte _ _).bind fun _ => (keepsLaw_readBufferByte _ _).bind fun _ => keepsLaw_pure _

theorem keepsLaw_headerHalf (off : Nat) : KeepsLaw c (headerHalf off) :=
  (keepsLaw_readBufferByte _ _).bind fun _ => (keepsLaw_readBufferByte _ _).bind fun _ => keepsLaw_pure _

theorem keepsLaw_extractFields : KeepsLaw c extractFields :=
  (keepsLaw_headerWord _).bind fun _ => .bind (keepsLaw_decoderSide fun _ => ⟨rfl, id⟩) fun _ =>
    (keepsLaw_headerWord _).bind fun _ => .bind (keepsLaw_decoderSide fun _ => ⟨rfl, id⟩) fun _ =>
      (keepsLaw_headerHalf _).bind fun _ => keepsLaw_decoderSide fun _ => ⟨rfl, id⟩

theorem keepsLaw_checkDepth : KeepsLaw c checkDepth :=
  (keepsLaw_readDec _ _).bind fun _ => keepsLaw_ite (keepsLaw_raise _ _ _) (keepsLaw_pure _)

theorem keepsLaw_clipImage : KeepsLaw c clipImage :=
  (keepsLaw_readDec _ _).bind fun _ => (keepsLaw_readDec _ _).bind fun _ =>
    .bind (keepsLaw_decoderSide fun _ => ⟨rfl, id⟩) fun _ => keepsLaw_decoderSide fun _ => ⟨rfl, id⟩

theorem keepsLaw_checkSize : KeepsLaw c checkSize :=
  (keepsLaw_readDec _ _).bind fun _ => (keepsLaw_readDec _ _).bind fun _ =>
    (keepsLaw_readDec _ _).bind fun _ => (keepsLaw_readDec _ _).bind fun _ =>
      keepsLaw_ite (keepsLaw_raise _ _ _) (keepsLaw_pure _)

theorem keepsLaw_setRowSize : KeepsLaw c setRowSize :=
  (keepsLaw_readDec _ _).bind fun _ => keepsLaw_decoderSide fun _ => ⟨rfl, id⟩

theorem keepsLaw_checkImage : KeepsLaw c checkImage :=
  (keepsLaw_setSeq _).bind fun _ => keepsLaw_readHeader.bind fun _ => (keepsLaw_setSeq _).bind fun _ =>
    keepsLaw_checkSignature.bind fun _ => keepsLaw_extractFields.bind fun _ => keepsLaw_checkDepth.bind fun _ =>
      keepsLaw_clipImage.bind fun _ => keepsLaw_checkSize.bind fun _ => keepsLaw_setRowSize

theorem keepsLaw_readRow (r : Nat) : KeepsLaw c (readRow r) := by
  refine (keepsLaw_readDec _ _).bind fun _ => (keepsLaw_readDec _ _).bind fun _ => (keepsLaw_readDec _ _).bind fun _ =>
    (keepsLaw_look _).bind fun _ => (keepsLaw_srcRead _ _).bind fun ans => ?_
  cases ans with
  | fail => exact keepsLaw_raise _ _ _
  | short bs => exact keepsLaw_raise _ _ _
  | ok bs => exact keepsLaw_writeBuffer _ _ _

theorem keepsLaw_convertPixels (n k : Nat) : KeepsLaw c (convertPixels n k) := by
  induction n generalizing k with
  | zero => exact keepsLaw_pure _
  | succ n ih =>
    have hpixel : KeepsLaw c (convertPixelAt k) :=
      (keepsLaw_readBufferByte _ _).bind fun _ => (keepsLaw_readBufferByte _ _).bind fun _ =>
        (keepsLaw_readBufferByte _ _).bind fun _ => (keepsLaw_look _).bind fun _ => keepsLaw_writeBuffer _ _ _
    exact hpixel.bind fun _ => ih _

theorem keepsLaw_handOff : KeepsLaw c handOff :=
  (keepsLaw_readDec _ _).bind fun _ => (keepsLaw_readBuffer _ _ _).bind fun _ => keepsLaw_append _

theorem keepsLaw_doRow (r : Nat) : KeepsLaw c (doRow r) :=
  (keepsLaw_setSeq _).bind fun _ => .bind (keepsLaw_decoderSide fun _ => ⟨rfl, id⟩) fun _ =>
    (keepsLaw_readRow r).bind fun _ =>
      ((keepsLaw_readDec _ _).bind fun _ => keepsLaw_convertPixels _ _).bind fun _ => keepsLaw_handOff

theorem keepsLaw_cancelPoint (r : Nat) : KeepsLaw c (cancelPoint r) :=
  keepsLaw_sampleCancel.bind fun _ => keepsLaw_ite (keepsLaw_raise _ _ _) (keepsLaw_pure _)

theorem keepsLaw_rowLoop (n r : Nat) : KeepsLaw c (rowLoop n r) := by
  induction n, r using rowLoop.induct with
  | case1 r => exact keepsLaw_pure _
  | case2 r => exact keepsLaw_doRow r
  | case3 n r ih => exact (keepsLaw_doRow r).bind fun _ => (keepsLaw_cancelPoint r).bind fun _ => ih

theorem keepsLaw_drawImage : KeepsLaw c drawImage :=
  (keepsLaw_setSeq _).bind fun _ => (keepsLaw_readDec _ _).bind fun _ => (keepsLaw_readDec _ _).bind fun _ =>
    (keepsLaw_windowBody _ _ _ _).bind fun _ => keepsLaw_rowLoop _ _

/-! ## Whole operations -/

theorem keepsLaw_initBody : KeepsLaw c initBody :=
  keepsLaw_requireInitLegal.bind fun _ => keepsLaw_closeStream.bind fun _ => keepsLaw_initClaim.bind fun _ =>
    (keepsLaw_drvState _).bind fun _ => (keepsLaw_update fun _ => lawfulIdle_initPulse).bind fun _ =>
      keepsLaw_initSequence.bind fun _ => (keepsLaw_drvState _).bind fun _ => keepsLaw_pure _

theorem keepsLaw_setWindowBody (x0 y0 x1 y1 : Half) : KeepsLaw c (setWindowBody x0 y0 x1 y1) :=
  keepsLaw_requireReady.bind fun _ => (keepsLaw_requireWindow _ _ _ _).bind fun _ =>
    (keepsLaw_windowBody _ _ _ _).bind fun _ => keepsLaw_pure _

theorem keepsLaw_writePixelsBody (bytes : List Byte) : KeepsLaw c (writePixelsBody bytes) :=
  keepsLaw_requireReady.bind fun _ => keepsLaw_requireStream.bind fun _ => (keepsLaw_append bytes).bind fun _ =>
    keepsLaw_pure _

theorem keepsLaw_endWriteBody : KeepsLaw c endWriteBody :=
  keepsLaw_requireReady.bind fun _ => keepsLaw_closeStream.bind fun _ => keepsLaw_pure _

theorem keepsLaw_fillBody (color : Half) : KeepsLaw c (fillBody color) :=
  keepsLaw_requireReady.bind fun _ => (keepsLaw_setSeq _).bind fun _ => (keepsLaw_look _).bind fun _ =>
    (keepsLaw_look _).bind fun _ => (keepsLaw_windowBody _ _ _ _).bind fun _ => (keepsLaw_look _).bind fun _ =>
      (keepsLaw_fillLoop _ _ _ _).bind fun _ => (keepsLaw_setSeq _).bind fun _ => keepsLaw_closeStream.bind fun _ =>
        keepsLaw_pure _

theorem keepsLaw_convertBody (r g b : Byte) : KeepsLaw c (convertBody r g b) :=
  (keepsLaw_look _).bind fun _ => keepsLaw_pure _

theorem keepsLaw_decodeBmpBody (hd : Byte) : KeepsLaw c (decodeBmpBody hd) :=
  keepsLaw_requireReady.bind fun _ => (keepsLaw_openSource hd).bind fun _ => keepsLaw_checkImage.bind fun _ =>
    keepsLaw_drawImage.bind fun _ => (keepsLaw_setSeq _).bind fun _ => keepsLaw_closeStream.bind fun _ =>
      (keepsLaw_update fun _ => lawfulIdle_closeSource).bind fun _ => keepsLaw_pure _

end parts

/-- An operation whose body keeps the bus lawful leaves it so, returned or aborted (R13, R216). -/
theorem lawfulIdle_runOperation {c : Config} {op : OpName} {src : Option Byte} {body : Op (Option Half)} {s t : State}
    (hb : KeepsLaw c body) (hs : LawfulIdle c s) (hrun : runOperation op src body s = .next t) : LawfulIdle c t := by
  rcases runOperation_cases op src body s with ⟨r, u, hu, e⟩ | ⟨code, rs, d, u, hu, e⟩ | ⟨f, u, hu, e⟩
  · obtain rfl : returnOk r u = t := by simpa [hrun] using e.symm
    exact ((hb s hs).of_ok hu).sameBus ⟨rfl, rfl, rfl, rfl⟩ rfl rfl
  · obtain rfl : takeAbort ⟨some op, src, rs, d⟩ code u = t := by simpa [hrun] using e.symm
    exact lawfulIdle_takeAbort _ _ ((hb s hs).of_raise hu)
  · simp [hrun] at e

/-- Every host operation emits command bytes of the eight codes alone (R89). -/
theorem lawfulIdle_exec {c : Config} {i : Instr} {s t : State} (hi : isHostOp i = true) (hs : LawfulIdle c s)
    (h : exec i s = .next t) : LawfulIdle c t := by
  cases i with
  | init => exact lawfulIdle_runOperation keepsLaw_initBody hs h
  | setWindow x0 y0 x1 y1 => exact lawfulIdle_runOperation (keepsLaw_setWindowBody x0 y0 x1 y1) hs h
  | writePixels bytes => exact lawfulIdle_runOperation (keepsLaw_writePixelsBody bytes) hs h
  | endWrite => exact lawfulIdle_runOperation keepsLaw_endWriteBody hs h
  | fill color => exact lawfulIdle_runOperation (keepsLaw_fillBody color) hs h
  | convert r g b =>
    exact lawfulIdle_runOperation (op := .convert) (src := none) (keepsLaw_convertBody r g b) hs h
  | decodeBmp hd => exact lawfulIdle_runOperation (keepsLaw_decodeBmpBody hd) hs h
  | _ => cases hi

/-- Settles O14, by the cases of a step: a construction starts an empty trace, a host operation keeps the bus lawful,
and what is left puts nothing on the bus. -/
theorem onlyEightCommandCodes : Obligations.OnlyEightCommandCodes := by
  intro s t hs hcodes h
  cases hn : s.newInstance with
  | some c =>
    rw [step_construct hn] at h
    split at h
    · cases h
      exact nofun
    · cases h
  | none =>
    have hlaw : LawfulIdle s.cfg s := ⟨⟨rfl, hs.lineAgrees, hcodes⟩, hs.selectedIffStream, hs.streamInData⟩
    have hconsume : ∀ rest, LawfulIdle s.cfg (consume rest s) := fun _ => hlaw.sameBus ⟨rfl, rfl, rfl, rfl⟩ rfl rfl
    obtain ⟨-, hcase⟩ := step_cases hn h
    cases hcase with
    | idle h => exact h ▸ hcodes
    | operation hdec hi h => exact (lawfulIdle_exec hi (hconsume _) h).codes
    | refused hdec h => exact h ▸ (lawfulIdle_takeAbort _ _ (hconsume _)).codes
    | controller hbus h hg => exact ((hconsume _).onlyController h).codes

end Sys2Proof.Proofs
end

section
/-! PROOFS. Operations whose transfers are all answered ok (spec/40_framing.md R102-R107, 42_driver_ops.md R143): they
return, and what they leave; and DRAW_PIXEL (spec/30_encoding.md R91). -/

namespace Sys2Proof.Proofs

open Sys2Proof.Machine Sys2Proof.Safety

/-! ## Returning -/

/-- `x`, run at `s`, returns, and `Q` holds of what it answers and leaves. -/
def Returns {α : Type} (x : Op α) (Q : α → State → Prop) (s : State) : Prop := ∃ a t, x s = .ok a t ∧ Q a t

section rules
variable {α β : Type} {Q : α → State → Prop} {s : State}

theorem Returns.mono {x : Op α} {P : α → State → Prop} (h : Returns x P s) (k : ∀ a t, P a t → Q a t) :
    Returns x Q s := by
  obtain ⟨a, t, e, ht⟩ := h
  exact ⟨a, t, e, k a t ht⟩

/-- What holds where a part ends without a fault holds where it returns. -/
theorem Returns.and_ends {x : Op α} {P : α → State → Prop} (h : Returns x P s) (k : Ends x Q s) :
    Returns x (fun a t => P a t ∧ Q a t) s := by
  obtain ⟨a, t, e, ht⟩ := h
  rw [Ends, e] at k
  exact ⟨a, t, e, ht, k⟩

theorem returns_pure {a : α} (h : Q a s) : Returns (pure a) Q s := ⟨a, s, rfl, h⟩

theorem Returns.bind {x : Op β} {f : β → Op α} (h : Returns x (fun b t => Returns (f b) Q t) s) :
    Returns (x >>= f) Q s := by
  obtain ⟨b, t, e, a, u, e', hu⟩ := h
  exact ⟨a, u, by rw [op_bind, e]; exact e', hu⟩

theorem returns_look {f : State → α} (h : Q (f s) s) : Returns (look f) Q s := ⟨f s, s, rfl, h⟩

theorem returns_requireReady {Q : Unit → State → Prop} (hr : s.drvState = .ready) (h : Q () s) :
    Returns requireReady Q s := ⟨(), s, by simp [requireReady, pixelLegal, hr], h⟩

theorem returns_requireWindow {x0 y0 x1 y1 : Half} {Q : Unit → State → Prop}
    (hr : windowInRange s.cfg x0 y0 x1 y1 = true) (h : Q () s) : Returns (requireWindow x0 y0 x1 y1) Q s :=
  ⟨(), s, by simp [requireWindow, hr], h⟩

/-- An operation whose body returns answers the state it left, with the status OK (R13, R33). -/
theorem Returns.next {op : OpName} {src : Option Byte} {body : Op (Option Half)} {Q : Option Half → State → Prop}
    (h : Returns body Q s) : ∃ r t, runOperation op src body s = .next (returnOk r t) ∧ Q r t := by
  obtain ⟨r, t, e, ht⟩ := h
  exact ⟨r, t, by rw [runOperation, e], ht⟩

end rules

/-! ## Frames of the window commands (R102, R103, R105, R143) -/

/-- `t` is `s` after the events `es`, with the answers `rest` still to come: of TFTCORE only the lines have changed, of
the controller neither GRAM nor the registers of the display. -/
structure Delivered (es : List Event) (rest : List TxAns) (s t : State) : Prop where
  frame : t = { s with
    dc := t.dc, busSel := t.busSel, streamOpen := t.streamOpen, trace := es.reverse ++ s.trace, txIn := rest
    ctl := t.ctl, freeCtr := t.freeCtr }
  display : SameDisplayRegs s t

section delivered
variable {es es' : List Event} {rest rest' : List TxAns} {s t u : State}

theorem Delivered.trans (h : Delivered es rest s t) (k : Delivered es' rest' t u) :
    Delivered (es ++ es') rest' s u := by
  obtain ⟨hf, hm, hc, hr, hs, hd⟩ := h
  obtain ⟨kf, km, kc, kr, ks, kd⟩ := k
  refine ⟨?_, km.trans hm, kc.trans hc, kr.trans hr, ks.trans hs, kd.trans hd⟩
  rw [List.reverse_append, List.append_assoc, kf, hf]

theorem Delivered.cfg (h : Delivered es rest s t) : t.cfg = s.cfg := by rw [h.frame]
theorem Delivered.txIn (h : Delivered es rest s t) : t.txIn = rest := by rw [h.frame]
theorem Delivered.trace (h : Delivered es rest s t) : t.trace = es.reverse ++ s.trace := by rw [h.frame]
theorem Delivered.gram (h : Delivered es rest s t) : t.gram = s.gram := by rw [h.frame]
theorem Delivered.gramEpoch (h : Delivered es rest s t) : t.gramEpoch = s.gramEpoch := by rw [h.frame]
theorem Delivered.drvState (h : Delivered es rest s t) : t.drvState = s.drvState := by rw [h.frame]

end delivered

/-- The three commands that open a window (R143). -/
def IsWindowCommand (c : Config) (b : Byte) : Prop := b = c.cmdCaset ∨ b = c.cmdRaset ∨ b = c.cmdRamwr

/-- A window command is none of the three commands that set the display's registers by themselves (R122, R123, R129). -/
theorem IsWindowCommand.ne {c : Config} {b : Byte} (hw : c.wf = true) (h : IsWindowCommand c b) :
    b ≠ c.cmdSwreset ∧ b ≠ c.cmdSlpout ∧ b ≠ c.cmdDispon := by
  obtain ⟨-, -, -, -, -, -, hn⟩ := of_decide_eq_true hw
  simp only [Config.commandCodes, List.nodup_cons, List.mem_cons, not_or, List.not_mem_nil] at hn
  unfold IsWindowCommand at h
  grind

theorem ctlEndContext_keeps (s : State) :
    ctlEndContext s = { s with ctl := (ctlEndContext s).ctl, freeCtr := (ctlEndContext s).freeCtr } ∧
      SameDisplayRegs s (ctlEndContext s) := by
  unfold ctlEndContext ctlCutShort
  repeat' split
  all_goals exact ⟨rfl, rfl, rfl, rfl, rfl, rfl⟩

/-- A window command at the controller touches neither GRAM nor the display's registers (R124-R126). -/
theorem ctlCommand_keeps {b : Byte} {s : State} (hw : s.cfg.wf = true) (hb : IsWindowCommand s.cfg b) :
    ctlCommand b s = { s with ctl := (ctlCommand b s).ctl, freeCtr := (ctlCommand b s).freeCtr } ∧
      SameDisplayRegs s (ctlCommand b s) := by
  obtain ⟨hswreset, hslpout, hdispon⟩ := hb.ne hw
  obtain ⟨hframe, hdisplay⟩ := ctlEndContext_keeps s
  have hcfg : (ctlBegin b (ctlEndContext s)).cfg = s.cfg := by
    rw [ctlBegin_cfg, hframe]
  unfold ctlCommand ctlEffect
  rw [hcfg, if_neg hswreset, if_neg hslpout, if_neg hdispon]
  split
  · refine ⟨?_, hdisplay⟩
    unfold ctlBegin
    rw [hframe]
  · refine ⟨?_, hdisplay⟩
    unfold ctlBegin
    rw [hframe]

/-- RAMWR starts its stream at the window's first pixel (R126). -/
theorem ctlCommand_ramwr_starts {s : State} (hw : s.cfg.wf = true) :
    (ctlCommand s.cfg.cmdRamwr s).ctl.wp = 0 ∧ (ctlCommand s.cfg.cmdRamwr s).ctl.hi = none := by
  obtain ⟨⟨hswreset, hslpout, -⟩, -⟩ := wf_codes hw
  have hcfg : (ctlBegin s.cfg.cmdRamwr (ctlEndContext s)).cfg = s.cfg :=
    onlyController_cfg (onlyController_trans (ctlEndContext_only s) (ctlBegin_only _ _))
  unfold ctlCommand ctlEffect
  rw [hcfg, if_neg hswreset.symm, if_neg hslpout.symm, if_pos rfl]
  exact ⟨rfl, rfl⟩

/-- CMD_FRAME of a window command (R102). -/
theorem returns_cmdFrame {b : Byte} {s : State} {rest : List TxAns} (hw : s.cfg.wf = true)
    (hb : IsWindowCommand s.cfg b) (hidle : s.busSel = false) (htx : s.txIn = .ok :: rest) :
    Returns (cmdFrame b) (fun _ t => Delivered (cmdEvents s.cfg b) rest s t ∧ t.busSel = false ∧
      t.ctl.cmd = some b ∧ t.ctl.argi = 0) s := by
  obtain ⟨hframe, hdisplay⟩ :=
    ctlCommand_keeps (s := record (.tx b true) { selectBus (driveCmd s) with txIn := rest }) hw hb
  have hreset := (hb.ne hw).1
  refine ⟨(), _, cmdFrame_ok hidle htx, ⟨?_, hdisplay⟩, rfl, ctlCommand_cmd hreset, ctlCommand_argi hreset⟩
  rw [hframe]
  rfl

theorem ctlWindowByte_eq (b : Byte) (done : Ctl → Ctl) (s : State) :
    ctlWindowByte b done s = { s with ctl := windowStep done s.ctl b } := by
  unfold ctlWindowByte windowStep
  split <;> rfl

/-- In the context of the command `code` a data byte is a payload byte of a window command, which sets its registers by
`done` (R124, R125). -/
def TakesWindowBytes (c : Config) (code : Byte) (done : Ctl → Ctl) : Prop :=
  ∀ (b : Byte) (t : State), t.cfg = c → t.ctl.cmd = some code → ctlData b t = .ok (ctlWindowByte b done t)

theorem takesWindowBytes_caset (c : Config) : TakesWindowBytes c c.cmdCaset setColumns := by
  intro b t ht hcmd
  simp [ctlData, ht, hcmd]

theorem takesWindowBytes_raset {c : Config} (hw : c.wf = true) : TakesWindowBytes c c.cmdRaset setRows := by
  intro b t ht hcmd
  obtain ⟨-, -, -, hne⟩ := wf_codes hw
  simp [ctlData, ht, hcmd, hne]

/-- What the controller does with payload bytes of the window command `code`. -/
theorem ctlDatas_windowBytes {done : Ctl → Ctl} (hdone : ∀ c, (done c).cmd = c.cmd) {code : Byte} {c : Config}
    (hdata : TakesWindowBytes c code done)
    (bs : List Byte) {s : State} (hc : s.cfg = c) (hcmd : s.ctl.cmd = some code) :
    ctlDatas bs s = .ok { s with ctl := bs.foldl (windowStep done) s.ctl } := by
  induction bs generalizing s with
  | nil => rfl
  | cons b bs ih =>
    have hkeep : (windowStep done s.ctl b).cmd = some code := by
      rw [← ctlWindowByte_ctl, ctlWindowByte_cmd b s done hdone, hcmd]
    simp only [ctlDatas, hdata b s hc hcmd, ctlWindowByte_eq]
    exact ih hc hkeep

/-- The payload of CASET or RASET as a data frame (R75, R103): the bytes reach `ctl_args`, and then `done` sets the
window registers. -/
theorem returns_windowPayload {done : Ctl → Ctl} (hdone : done = setColumns ∨ done = setRows) {code : Byte}
    {s : State} {rest : List TxAns} {x y : Half}
    (hdata : TakesWindowBytes s.cfg code done)
    (hidle : s.busSel = false) (hcmd : s.ctl.cmd = some code) (hargi : s.ctl.argi = 0)
    (htx : s.txIn = List.replicate 4 .ok ++ rest) :
    Returns (dataFrame (windowPayload x y)) (fun _ t =>
      Delivered (dataEvents s.cfg (windowPayload x y)) rest s t ∧ t.busSel = false) s := by
  have hcmdKept : ∀ c, (done c).cmd = c.cmd := by rcases hdone with rfl | rfl <;> exact fun _ => rfl
  have hsend := sendBytes_ok (frame := .data) (close := releaseBus) (i := 0) (s := selectBus (driveData s))
    (u := { selectBus (driveData s) with ctl := done (wholePayload x y s.ctl) }) (rest := rest)
    (bs := windowPayload x y) rfl htx fun ti tr =>
      (ctlDatas_windowBytes (s := { selectBus (driveData s) with txIn := ti, trace := tr }) hcmdKept hdata _ rfl
        hcmd).trans
        (congrArg (fun c => Except.ok { selectBus (driveData s) with ctl := c, txIn := ti, trace := tr })
          (foldl_windowStep done hargi x y))
  refine ⟨(), _, by rw [dataFrame_eq hidle (by simp [windowPayload, be16Bytes]), hsend], ⟨?_, ?_⟩, rfl⟩
  · simp [dataEvents, sentEvents, releaseBus, selectBus, driveData]
  · rcases hdone with rfl | rfl <;> exact ⟨rfl, rfl, rfl, rfl, rfl⟩

/-- CASET or RASET with its payload (R104, R143). -/
theorem returns_windowCommand {done : Ctl → Ctl} (hdone : done = setColumns ∨ done = setRows) {code : Byte}
    {s : State} {rest : List TxAns} {x y : Half} (hw : s.cfg.wf = true) (hcode : IsWindowCommand s.cfg code)
    (hdata : TakesWindowBytes s.cfg code done)
    (hidle : s.busSel = false) (htx : s.txIn = List.replicate 5 .ok ++ rest) :
    Returns (cmdWithPayload code (windowPayload x y)) (fun _ t =>
      Delivered (cmdEvents s.cfg code ++ dataEvents s.cfg (windowPayload x y)) rest s t ∧ t.busSel = false) s := by
  refine .bind ((returns_cmdFrame hw hcode hidle htx).mono ?_)
  rintro - t ⟨ht, hidle, hcmd, hargi⟩
  refine (returns_windowPayload hdone (ht.cfg ▸ hdata) hidle hcmd hargi ht.txIn).mono ?_
  rintro - u ⟨hu, hidle⟩
  exact ⟨ht.trans (ht.cfg ▸ hu), hidle⟩

/-- OPEN_STREAM (R105): the stream starts at the window's first pixel. -/
theorem returns_openStream {s : State} {rest : List TxAns} (hw : s.cfg.wf = true) (hidle : s.busSel = false)
    (htx : s.txIn = .ok :: rest) :
    Returns openStream (fun _ t =>
      Delivered [.pinDc s.cfg.dcCmd, .pinCs s.cfg.csActive, .tx s.cfg.cmdRamwr true, .pinDc s.cfg.dcCmd.opposite]
        rest s t ∧ t.ctl.wp = 0 ∧ t.ctl.hi = none) s := by
  obtain ⟨hframe, hdisplay⟩ := ctlCommand_keeps (b := s.cfg.cmdRamwr)
    (s := record (.tx s.cfg.cmdRamwr true) { selectBus (driveCmd s) with txIn := rest }) hw (.inr (.inr rfl))
  have hstarts :=
    ctlCommand_ramwr_starts (s := record (.tx s.cfg.cmdRamwr true) { selectBus (driveCmd s) with txIn := rest }) hw
  refine ⟨(), _, openStream_ok hidle htx, ⟨?_, hdisplay⟩, hstarts⟩
  rw [hframe]
  rfl

/-- The frames of SET_WINDOW (R143). -/
theorem returns_windowFrames {x0 y0 x1 y1 : Half} {s : State} {rest : List TxAns} (hw : s.cfg.wf = true)
    (hidle : s.busSel = false) (htx : s.txIn = List.replicate 11 .ok ++ rest) :
    Returns (windowFrames x0 y0 x1 y1) (fun _ t => Delivered (windowEvents s.cfg x0 y0 x1 y1) rest s t ∧
      t.ctl.wp = 0 ∧ t.ctl.hi = none) s := by
  refine .bind (returns_look (.bind (returns_look (.bind ?_))))
  refine (returns_windowCommand (rest := List.replicate 6 .ok ++ rest) (.inl rfl) hw (.inl rfl)
    (takesWindowBytes_caset s.cfg) hidle htx).mono ?_
  rintro - t ⟨ht, hidle⟩
  have hcfg := ht.cfg
  refine .bind ((returns_windowCommand (rest := .ok :: rest) (.inr rfl) (hcfg ▸ hw) (hcfg ▸ .inr (.inl rfl))
    (hcfg.symm ▸ takesWindowBytes_raset hw) hidle ht.txIn).mono ?_)
  rintro - u ⟨hu, hidle⟩
  refine (returns_openStream (hu.cfg ▸ hcfg ▸ hw) hidle hu.txIn).mono ?_
  rintro - v ⟨hv, hstart⟩
  refine ⟨?_, hstart⟩
  have hall := (ht.trans hu).trans hv
  rw [hu.cfg, hcfg] at hall
  simpa only [windowEvents, List.append_assoc] using hall

/-! ## SET_WINDOW, a pixel, END_WRITE (R143, R126, R147) -/

/-- CLOSE_STREAM where no pixel is half sent (R107, 93 I2). -/
theorem closeStream_noHalfPixel {s : State} (h : NoHalfPixel s) :
    closeStream s = if s.streamOpen then { releaseBus s with streamOpen := false } else s := by
  unfold closeStream
  split
  · next ho => rw [ctlHalfPixel_none (s := releaseBus s) (h ho)]
  · rfl

/-- The controller once the pixel `p` is in its cell (R126). -/
def pixelWritten (p : Half) (s : State) : State :=
  { s with
    gram := gramWrite s.gram (pixelX s.ctl s.ctl.wp) (pixelY s.ctl s.ctl.wp) p
    ctl := { s.ctl with wp := s.ctl.wp + 1, hi := none } }

theorem ctlPixel_inside {p : Half} {s : State} (hk : s.ctl.wp < windowCount s.ctl) (hwin : windowInPanel s) :
    ctlPixel p s = .ok (pixelWritten p s) := by
  rw [ctlPixel, if_pos hk, if_pos (inPanel_of_windowInPanel hwin hk)]
  rfl

/-- The controller with the first byte of a pixel waiting (R126). -/
def halfReceived (b : Byte) (s : State) : State := { s with ctl := { s.ctl with hi := some b } }

theorem ctlStreamByte_first {b : Byte} {s : State} (hd : streamDefined s = true) (hhi : s.ctl.hi = none) :
    ctlStreamByte b s = .ok (halfReceived b s) := by
  rw [ctlStreamByte, if_pos hd, hhi]
  rfl

theorem ctlStreamByte_second {h l : Byte} {s : State} (hd : streamDefined s = true) (hhi : s.ctl.hi = some h) :
    ctlStreamByte l s = ctlPixel (be16 h l) s := by
  rw [ctlStreamByte, if_pos hd, hhi]

/-- The two bytes of a pixel, high byte first, write it to the next cell of the window (R126). -/
theorem ctlDatas_pixel (p : Half) {s : State} (hw : s.cfg.wf = true) (hcmd : s.ctl.cmd = some s.cfg.cmdRamwr)
    (hd : streamDefined s = true) (hhi : s.ctl.hi = none) (hk : s.ctl.wp < windowCount s.ctl) (hwin : windowInPanel s) :
    ctlDatas (be16Bytes p) s = .ok (pixelWritten p s) := by
  have hhigh : ctlData (hiByte p) s = .ok (halfReceived (hiByte p) s) := by
    rw [ctlData_ramwr hw hcmd, ctlStreamByte_first hd hhi]
  have hlow : ctlData (loByte p) (halfReceived (hiByte p) s) = .ok (pixelWritten p s) := by
    rw [ctlData_ramwr (s := halfReceived (hiByte p) s) hw hcmd,
      ctlStreamByte_second (s := halfReceived (hiByte p) s) hd rfl, be16_hiByte_loByte]
    exact ctlPixel_inside (s := halfReceived (hiByte p) s) hk hwin
  simp only [be16Bytes, ctlDatas, hhigh, hlow]

theorem modeAfter_windowEvents (c : Config) (x0 y0 x1 y1 : Half) (es : List Event) :
    modeAfter c ((windowEvents c x0 y0 x1 y1).reverse ++ es) = .data := by
  rw [windowEvents, List.reverse_append]
  exact if_neg (level_opposite_ne _)

/-- SET_WINDOW (R143): the stream of the window is open at its first pixel. -/
theorem exec_setWindow {x0 y0 x1 y1 : Half} {s : State} {rest : List TxAns} (hready : s.drvState = .ready)
    (hw : s.cfg.wf = true) (hr : windowInRange s.cfg x0 y0 x1 y1 = true) (hb : s.busSel = s.streamOpen)
    (htx : TransfersOk s 11 rest) :
    ∃ r t, exec (.setWindow x0 y0 x1 y1) s = .next (returnOk r t) ∧
      Delivered (windowEvents s.cfg x0 y0 x1 y1) rest (closeStream s) t ∧ t.ctl.wp = 0 ∧ t.ctl.hi = none ∧
      StreamReady t ∧ WindowIs t x0 y0 x1 y1 := by
  have hbody : Returns (windowBody x0 y0 x1 y1) (fun _ t =>
      Delivered (windowEvents s.cfg x0 y0 x1 y1) rest (closeStream s) t ∧ t.ctl.wp = 0 ∧ t.ctl.hi = none) s := by
    obtain ⟨a, t, e, ht⟩ := returns_windowFrames (x0 := x0) (y0 := y0) (x1 := x1) (y1 := y1) (s := closeStream s)
      (rest := rest) (by simpa using hw) (closeStream_busSel s hb) (by rw [closeStream_txIn]; exact htx)
    exact ⟨a, t, by rw [windowBody, e], by simpa using ht⟩
  refine (Returns.bind (returns_requireReady hready (Returns.bind (returns_requireWindow hr (Returns.bind
    ((hbody.and_ends (ends_windowBody hw hb)).mono ?_)))))).next
  rintro - t ⟨⟨ht, hwp, hhi⟩, hports, hcmd, hwin⟩
  obtain ⟨hxs, hxe, hys, hye⟩ := hwin
  have hcfg := hports.cfg
  refine returns_pure ⟨ht, hwp, hhi, ⟨?_, hports.streamOpen, hports.dc, ?_, hcfg ▸ hcmd, ?_⟩, hxs, hxe, hys, hye⟩
  · rw [ht.drvState, closeStream_drvState, hready]
  · rw [hcfg, ht.trace]
    exact modeAfter_windowEvents _ _ _ _ _ _
  · rw [windowInPanel, hxs, hxe, hys, hye, hcfg]
    exact of_decide_eq_true hr

/-- WRITE_PIXELS of one pixel (R145), with room for it in the window. -/
theorem exec_writePixels_pixel (p : Half) {s : State} {rest : List TxAns} (hs : StreamReady s) (hw : s.cfg.wf = true)
    (hd : streamDefined s = true) (hhi : s.ctl.hi = none) (hk : s.ctl.wp < windowCount s.ctl)
    (htx : TransfersOk s 2 rest) :
    exec (.writePixels (be16Bytes p)) s = .next (returnOk none
      { pixelWritten p s with txIn := rest, trace := (sentEvents (be16Bytes p)).reverse ++ s.trace }) := by
  have hsend := sendBytes_ok (frame := .stream) (close := closeStream) (i := 0) (bs := be16Bytes p) (s := s)
    (u := pixelWritten p s) (rest := rest) hs.dataMode htx fun ti tr =>
      ctlDatas_pixel p (s := { s with txIn := ti, trace := tr }) hw hs.context hd hhi hk hs.window
  have hbody : writePixelsBody (be16Bytes p) s = .ok none
      { pixelWritten p s with txIn := rest, trace := (sentEvents (be16Bytes p)).reverse ++ s.trace } := by
    have hready : requireReady s = .ok () s := if_pos (decide_eq_true hs.ready)
    have hopen : requireStream s = .ok () s := if_pos hs.isOpen
    simp only [writePixelsBody, op_bind, op_pure, hready, hopen, append_open hs.isOpen, hsend, sentEvents]
  show runOperation .writePixels none (writePixelsBody (be16Bytes p)) s = _
  rw [runOperation, hbody]

/-- END_WRITE (R147). -/
theorem exec_endWrite {s : State} (hready : s.drvState = .ready) :
    exec .endWrite s = .next (returnOk none (closeStream s)) := by
  have hbody : endWriteBody s = .ok none (closeStream s) := by
    have hready : requireReady s = .ok () s := if_pos (decide_eq_true hready)
    simp only [endWriteBody, op_bind, op_pure, update_apply, hready]
  show runOperation .endWrite none endWriteBody s = _
  rw [runOperation, hbody]

/-! ## DRAW_PIXEL (R91) -/

theorem closeStream_gram {s : State} (h : NoHalfPixel s) :
    (closeStream s).gram = s.gram ∧ (closeStream s).gramEpoch = s.gramEpoch := by
  rw [closeStream_noHalfPixel h]
  split <;> exact ⟨rfl, rfl⟩

theorem sixteenBit_delivered {es : List Event} {rest : List TxAns} {s t : State}
    (h : Delivered es rest (closeStream s) t) : sixteenBit t = sixteenBit s := by
  obtain ⟨-, hcolmod, hrecv, -⟩ := h.display
  rw [sixteenBit, hcolmod, hrecv, h.cfg, closeStream_cfg, closeStream_ctl, sixteenBit]

/-- The cell that takes the pixel holds it (R53, R126). -/
theorem gramPixel_gramWrite {s t : State} {x y : Nat} {p : Half} (hg : t.gram = gramWrite s.gram x y p) :
    gramPixel t x y = p := by
  simp [gramPixel, gramByte, hg, memRead_gramWrite]

/-- Every other cell reads as before (R126). -/
theorem gramByte_gramWrite_other {s t : State} {x y a : Nat} {p : Half} (hg : t.gram = gramWrite s.gram x y p)
    (he : t.gramEpoch = s.gramEpoch) (h : a ≠ gramAddr x y) (h' : a ≠ gramAddr x y + 1) :
    gramByte t a = gramByte s a := by
  simp [gramByte, hg, he, memRead_gramWrite, h, h']

/-- A pixel written and END_WRITE, at the start of a stream (R126, R145, R147): the window's first cell takes it. -/
theorem runHost_pixel_endWrite (p : Half) {s : State} {rest : List TxAns} (hs : StreamReady s) (hw : s.cfg.wf = true)
    (hd : streamDefined s = true) (hwp : s.ctl.wp = 0) (hhi : s.ctl.hi = none) (htx : TransfersOk s 2 rest) :
    ∃ t, runHost [.writePixels (be16Bytes p), .endWrite] s = some t ∧ t.stCode = .ok ∧ BusReleased t ∧ t.txIn = rest ∧
      t.gram = gramWrite s.gram s.ctl.xs.toNat s.ctl.ys.toNat p ∧ t.gramEpoch = s.gramEpoch := by
  have hwrite := exec_writePixels_pixel p hs hw hd hhi (hwp ▸ windowCount_pos s.ctl) htx
  have hgram : (pixelWritten p s).gram = gramWrite s.gram s.ctl.xs.toNat s.ctl.ys.toNat p := by
    rw [← pixelX_zero, ← pixelY_zero, ← hwp]
    rfl
  generalize hu : returnOk none
    { pixelWritten p s with txIn := rest, trace := (sentEvents (be16Bytes p)).reverse ++ s.trace } = u at hwrite
  have hclose : closeStream u = { releaseBus u with streamOpen := false } := by
    rw [closeStream_noHalfPixel (hu ▸ fun _ => rfl), if_pos (hu ▸ hs.isOpen)]
  refine ⟨returnOk none (closeStream u), ?_, rfl, ?_, ?_, ?_, ?_⟩
  · simp only [runHost, hwrite, exec_endWrite (s := u) (hu ▸ hs.ready)]
  all_goals rw [hclose, ← hu]
  · exact ⟨rfl, rfl⟩
  · rfl
  · exact hgram
  · rfl

/-- Settles O42: SET_WINDOW opens a stream on the window of one pixel, WRITE_PIXELS fills it, END_WRITE closes it with
no pixel half sent. -/
theorem drawPixelSetsOneCell : Obligations.DrawPixelSetsOneCell := by
  intro x y p s rest hready hw hx hy hb hhalf h16 htx
  have hr : windowInRange s.cfg x y x y = true := decide_eq_true ⟨le_rfl, hx, le_rfl, hy⟩
  obtain ⟨r, t, hset, ht, hwp, hhi, hstream, hxs, hxe, hys, hye⟩ :=
    exec_setWindow (rest := .ok :: .ok :: rest) hready hw hr hb htx
  obtain ⟨hgram, hepoch⟩ := closeStream_gram hhalf
  have hdefined : streamDefined (returnOk r t) = true := by
    have hformed : windowFormed t.ctl = true := by simp [windowFormed, hxs, hxe, hys, hye]
    have h16' : sixteenBit t = true := (sixteenBit_delivered ht).trans h16
    exact Bool.and_eq_true_iff.2 ⟨h16', hformed⟩
  have hstream' : StreamReady (returnOk r t) :=
    ⟨hstream.ready, hstream.isOpen, hstream.dataMode, hstream.lineAgrees, hstream.context, hstream.window⟩
  have hw' : (returnOk r t).cfg.wf = true := by rw [returnOk_cfg, ht.cfg, closeStream_cfg, hw]
  obtain ⟨u, hrun, hok, hreleased, hrest, hug, hue⟩ :=
    runHost_pixel_endWrite p (rest := rest) hstream' hw' hdefined hwp hhi ht.txIn
  rw [returnOk_ctl, hxs, hys, returnOk_gram, ht.gram, hgram] at hug
  rw [returnOk_gramEpoch, ht.gramEpoch, hepoch] at hue
  refine ⟨u, ?_, hok, hreleased, hrest, gramPixel_gramWrite hug, fun a h h' => gramByte_gramWrite_other hug hue h h'⟩
  rw [pseudoDrawPixel, runHost, hset]
  exact hrun

end Sys2Proof.Proofs
end

section
/-! PROOFS. The statements of spec/40_framing.md on closing a stream (R107) and on the chunking of its bytes (R106, R248).
The chunks of a stream are separated by the return of one call alone, which writes the status, the response and the
sequencer (R13, R33); no transfer looks at these, so it may as well come after the bytes of the next chunk. -/

namespace Sys2Proof.Proofs

open Sys2Proof.Machine Sys2Proof.Safety

/-! ## CLOSE_STREAM (R107) -/

/-- Settles O25, by the two cases of CLOSE_STREAM; it leaves the stream closed, so a second one does nothing. -/
theorem closeStreamLaws : Obligations.CloseStreamLaws := by
  intro s
  refine ⟨fun ho => ?_, closeStream_closed s, closeStream_closed _ (closeStream_streamOpen s)⟩
  rcases closeStream_cases s with ⟨hclosed, -⟩ | ⟨-, g, e, n, h⟩
  · simp [hclosed] at ho
  · refine ⟨closeStream_streamOpen s, ?_, closeStream_dc s, ?_, closeStream_ctl s⟩
    · rw [h]
      rfl
    · rw [h]
      exact List.reverse_cons

/-! ## A return between two bytes (R13, R33) -/

section returned
variable (b : Byte) (r : Option Half) (s : State)

theorem freeStreamEffect_returnOk : freeStreamEffect (returnOk r s) = returnOk r (freeStreamEffect s) := by
  unfold freeStreamEffect
  rw [apply_ite (returnOk r)]
  rfl

theorem ctlCutShort_returnOk : ctlCutShort (returnOk r s) = returnOk r (ctlCutShort s) := by
  unfold ctlCutShort
  simp only [apply_ite (returnOk r)]
  rfl

theorem ctlEndContext_returnOk : ctlEndContext (returnOk r s) = returnOk r (ctlEndContext s) := by
  rw [ctlEndContext, ctlCutShort_returnOk]
  rfl

theorem ctlEffect_returnOk : ctlEffect b (returnOk r s) = returnOk r (ctlEffect b s) := by
  unfold ctlEffect
  simp only [apply_ite (returnOk r)]
  rfl

theorem ctlCommand_returnOk : ctlCommand b (returnOk r s) = returnOk r (ctlCommand b s) := by
  rw [ctlCommand, ctlEndContext_returnOk]
  exact ctlEffect_returnOk b r (ctlBegin b (ctlEndContext s))

theorem ctlWindowByte_returnOk (done : Ctl → Ctl) :
    ctlWindowByte b done (returnOk r s) = returnOk r (ctlWindowByte b done s) := by
  unfold ctlWindowByte
  rw [apply_ite (returnOk r)]
  rfl

theorem ctlColmodByte_returnOk : ctlColmodByte b (returnOk r s) = returnOk r (ctlColmodByte b s) := by
  unfold ctlColmodByte
  rw [apply_ite (returnOk r)]
  rfl

theorem ctlMadctlByte_returnOk : ctlMadctlByte b (returnOk r s) = returnOk r (ctlMadctlByte b s) := by
  unfold ctlMadctlByte
  rw [apply_ite (returnOk r)]
  rfl

theorem ctlUndefinedByte_returnOk : ctlUndefinedByte (returnOk r s) = returnOk r (ctlUndefinedByte s) := by
  rw [ctlUndefinedByte, freeStreamEffect_returnOk]
  rfl

theorem ctlPixel_returnOk (p : Half) : ctlPixel p (returnOk r s) = (ctlPixel p s).map (returnOk r) := by
  unfold ctlPixel
  simp only [apply_ite (Except.map (returnOk r))]
  rfl

theorem ctlStreamByte_returnOk : ctlStreamByte b (returnOk r s) = (ctlStreamByte b s).map (returnOk r) := by
  unfold ctlStreamByte
  simp only [apply_ite (Except.map (returnOk r)), ctlUndefinedByte_returnOk, ctlPixel_returnOk, returnOk_ctl]
  cases s.ctl.hi <;> rfl

theorem ctlData_returnOk : ctlData b (returnOk r s) = (ctlData b s).map (returnOk r) := by
  unfold ctlData
  simp only [apply_ite (Except.map (returnOk r)), ctlWindowByte_returnOk, ctlStreamByte_returnOk,
    ctlColmodByte_returnOk, ctlMadctlByte_returnOk]
  rfl

/-- The controller does not look at the status, the response or the sequencer (R37, R121). -/
theorem deliver_returnOk : deliver b (returnOk r s) = (deliver b s).map (returnOk r) := by
  cases hdc : s.dc with
  | cmd => rw [deliver_cmd hdc, deliver_cmd (s := returnOk r s) hdc, ctlCommand_returnOk]; rfl
  | data => rw [deliver_data hdc, deliver_data (s := returnOk r s) hdc, ctlData_returnOk]
  | unknown =>
    rw [deliver_unknown hdc, deliver_unknown (s := returnOk r s) hdc, returnOk_freeCtr]
    split
    · exact congrArg Except.ok (ctlCommand_returnOk b r { s with freeCtr := s.freeCtr + 1 })
    · exact ctlData_returnOk b r { s with freeCtr := s.freeCtr + 1 }

theorem afterTx_returnOk : afterTx (returnOk r s) = returnOk r (afterTx s) := by
  unfold afterTx
  rw [returnOk_txIn]
  cases s.txIn <;> rfl

/-- The end of a part of an operation with `f` applied to the state it left. -/
def mapEnd {α : Type} (f : State → State) : EStateM.Result Stop State α → EStateM.Result Stop State α
  | .ok a t => .ok a (f t)
  | .error e t => .error e (f t)

theorem record_returnOk (e : Event) : record e (returnOk r s) = returnOk r (record e s) := rfl

theorem transfer_returnOk (answeredOk received : Bool) :
    transfer b answeredOk received (returnOk r s) = mapEnd (returnOk r) (transfer b answeredOk received s) := by
  unfold transfer
  rw [record_returnOk, deliver_returnOk]
  cases received with
  | true => cases deliver b (record (.tx b answeredOk) s) <;> rfl
  | false => rfl

/-- `Tx` answers the same, and leaves the same, whether a call has returned before it or returns after it (R12). -/
theorem tx_returnOk : tx b (returnOk r s) = mapEnd (returnOk r) (tx b s) := by
  show transfer b (nextTx s).isOk (nextTx s).isReceived (afterTx (returnOk r s)) = _
  rw [afterTx_returnOk]
  exact transfer_returnOk b r (afterTx s) _ _

end returned

/-! ## Bytes that are all answered ok (R106) -/

/-- The bytes, sent one after another from `s` on, are all answered ok and leave `t`. -/
inductive Sends : List Byte → State → State → Prop
  | nil {s : State} : Sends [] s s
  | cons {b : Byte} {bs : List Byte} {s t u : State} (h : tx b s = .ok true t) (k : Sends bs t u) : Sends (b :: bs) s u

section sends
variable {bs xs ys : List Byte} {r : Option Half} {s t u : State}

theorem Sends.append (h : Sends xs s t) (k : Sends ys t u) : Sends (xs ++ ys) s u := by
  induction h with
  | nil => exact k
  | cons hb _ ih => exact .cons hb (ih k)

/-- The bytes of a stream run to their end exactly where all are answered ok; the byte index is seen in a failure alone. -/
theorem sendBytes_eq_ok_iff {frame : FrameKind} {close : State → State} {i : Nat} :
    sendBytes frame close i bs s = .ok () t ↔ Sends bs s t := by
  induction bs generalizing i s with
  | nil =>
    constructor
    · rintro ⟨⟩
      exact .nil
    · rintro ⟨⟩
      rfl
  | cons b bs ih =>
    constructor
    · intro h
      obtain ⟨ok, v, hb, hrest⟩ := op_bind_ok h
      cases ok with
      | true => exact .cons hb (ih.1 hrest)
      | false => cases hrest
    · rintro (_ | ⟨hb, hrest⟩)
      rw [sendBytes, op_bind, hb]
      exact ih.2 hrest

/-- Bytes sent after a call has returned could have been sent before its return. -/
theorem Sends.before_returnOk (h : Sends bs (returnOk r s) u) : ∃ t, Sends bs s t ∧ u = returnOk r t := by
  induction bs generalizing s with
  | nil =>
    cases h
    exact ⟨s, .nil, rfl⟩
  | cons b bs ih =>
    obtain _ | ⟨hb, hrest⟩ := h
    rw [tx_returnOk] at hb
    cases hs : tx b s with
    | error e v => rw [hs] at hb; cases hb
    | ok a v =>
      rw [hs] at hb
      cases hb
      obtain ⟨t, ht, hu⟩ := ih hrest
      exact ⟨t, .cons hs ht, hu⟩

end sends

/-! ## Chunks (R248) -/

/-- What holds of every answer of a part, beside how it raises. -/
theorem Leaves.of_eq_ok {α : Type} {x : Op α} {P Q : α → State → Prop} {E : StCode → State → Prop} {s : State}
    (h : Leaves x P E s) (hQ : ∀ a t, x s = .ok a t → Q a t) : Leaves x Q E s := by
  unfold Leaves at *
  split at h
  · next hx => exact hQ _ _ hx
  · exact h
  · trivial

/-- An operation with the status OK returned, where no raise of its body has the code OK (R13, R33). -/
theorem runOperation_ok {op : OpName} {src : Option Byte} {body : Op (Option Half)} {Q : Option Half → State → Prop}
    {s t : State} (h : Leaves body Q (fun c _ => c ≠ .ok) s) (hrun : runOperation op src body s = .next t)
    (hok : t.stCode = .ok) : ∃ r u, t = returnOk r u ∧ Q r u := by
  rcases runOperation_cases op src body s with ⟨r, u, hb, e⟩ | ⟨c, rs, d, u, hb, e⟩ | ⟨f, u, -, e⟩ <;>
    rw [e] at hrun <;> cases hrun
  · exact ⟨r, u, rfl, h.of_ok hb⟩
  · exact absurd ((takeAbort_status _ c u).1.symm.trans hok) (h.of_raise hb)

/-- APPEND on an open stream returns with its bytes sent, and no raise of it has the code OK (R106). -/
theorem leaves_append {bytes : List Byte} {s : State} (ho : s.streamOpen = true) :
    Leaves (append bytes) (fun _ t => Sends bytes s t) (fun c _ => c ≠ .ok) s := by
  have hraises : Within (fun c _ => c ≠ .ok) .endWrite (append bytes) := within_append (fun _ => nofun) bytes
  refine ((hraises s).mono (fun _ _ _ => trivial) fun _ _ h => h.1).of_eq_ok fun _ t h => ?_
  rw [append_open ho] at h
  exact sendBytes_eq_ok_iff.1 h

theorem leaves_writePixelsBody (bytes : List Byte) (s : State) :
    Leaves (writePixelsBody bytes) (fun r t => s.drvState = .ready ∧ s.streamOpen = true ∧ r = none ∧ Sends bytes s t)
      (fun c _ => c ≠ .ok) s := by
  simp only [writePixelsBody, leaves_bind, leaves_pure]
  exact leaves_requireReady (fun hr => leaves_requireStream
    (fun ho => (leaves_append ho).mono (fun _ _ h => ⟨hr, ho, trivial, h⟩) fun _ _ h => h) nofun) nofun

/-- WRITE_PIXELS completes exactly where a stream is open in `Ready` and its bytes are all answered ok (R22, R145). -/
theorem exec_writePixels_ok_iff {bytes : List Byte} {s t : State} :
    exec (.writePixels bytes) s = .next t ∧ t.stCode = .ok ↔
      s.drvState = .ready ∧ s.streamOpen = true ∧ ∃ u, Sends bytes s u ∧ t = returnOk none u := by
  constructor
  · rintro ⟨h, hok⟩
    obtain ⟨_, u, rfl, hready, hopen, rfl, hu⟩ := runOperation_ok (leaves_writePixelsBody bytes s) h hok
    exact ⟨hready, hopen, u, hu, rfl⟩
  · rintro ⟨hready, hopen, u, hu, rfl⟩
    have hbody : writePixelsBody bytes s = .ok none u := by
      have hr : requireReady s = .ok () s := if_pos (decide_eq_true hready)
      have ho : requireStream s = .ok () s := if_pos hopen
      have hsend := sendBytes_eq_ok_iff (frame := .stream) (close := closeStream) (i := 0).2 hu
      simp only [writePixelsBody, op_bind, op_pure, hr, ho, append_open hopen, hsend]
    refine ⟨?_, rfl⟩
    show runOperation .writePixels none (writePixelsBody bytes) s = _
    rw [runOperation, hbody]

/-- Settles O39: the bytes of the second call follow those of the first, and the return between them is lost in the one
at the end. -/
theorem writePixelsChunks : Obligations.WritePixelsChunks := by
  intro xs ys s t u hxs ht hys hu
  obtain ⟨hready, hopen, v, hv, rfl⟩ := exec_writePixels_ok_iff.1 ⟨hxs, ht⟩
  obtain ⟨-, -, w, hw, rfl⟩ := exec_writePixels_ok_iff.1 ⟨hys, hu⟩
  obtain ⟨z, hz, rfl⟩ := hw.before_returnOk
  exact (exec_writePixels_ok_iff.2 ⟨hready, hopen, z, hv.append hz, rfl⟩).1

end Sys2Proof.Proofs
end

section
/-! PROOFS. The controller's commands other than RAMWR (spec/41_controller_commands.md R121-R125, R127-R129, R131): the
command byte begins its context, and then sets its one bit or waits for its payload. -/

namespace Sys2Proof.Proofs

open Sys2Proof.Machine Sys2Proof.Safety

/-! ## The beginning of a command context (R121, R131) -/

theorem runFrame_of_ok {code : Byte} {payload : List Byte} {s t : State} (h : ctlFrame code payload s = .ok t) :
    runFrame code payload s = .next t := by rw [runFrame, h]

/-- `t` is `s` in the context that the command byte `b` begins: no payload counted yet, a half pixel discarded, a window
payload cut short lost, nothing else changed (R121, R124, R131, log 38). -/
structure ContextBegun (b : Byte) (s t : State) : Prop where
  only : OnlyController s t
  gram : SameGram s t
  display : SameDisplayRegs s t
  args : SameArgs s t
  cmd : t.ctl.cmd = some b
  argi : t.ctl.argi = 0
  hi : t.ctl.hi = none
  wp : t.ctl.wp = s.ctl.wp
  window : WholeContext s → WindowIs t s.ctl.xs s.ctl.ys s.ctl.xe s.ctl.ye

/-- A window payload cut short loses its own registers alone (R124, R125). -/
theorem ctlCutShort_keeps (s : State) :
    SameGram s (ctlCutShort s) ∧ SameDisplayRegs s (ctlCutShort s) ∧ SameArgs s (ctlCutShort s) ∧
      (ctlCutShort s).ctl.wp = s.ctl.wp := by
  unfold ctlCutShort
  repeat' split
  all_goals exact ⟨fun _ => rfl, ⟨rfl, rfl, rfl, rfl, rfl⟩, ⟨rfl, rfl, rfl, rfl⟩, rfl⟩

theorem contextBegun (b : Byte) (s : State) : ContextBegun b s (ctlBegin b (ctlEndContext s)) := by
  obtain ⟨hgram, hdisplay, hargs, hwp⟩ := ctlCutShort_keeps s
  refine ⟨onlyController_trans (ctlEndContext_only s) (ctlBegin_only b _), hgram, hdisplay, hargs, rfl, rfl, rfl, hwp,
    fun hwhole => ?_⟩
  rw [ctlEndContext, ctlCutShort_wholeContext hwhole]
  exact ⟨rfl, rfl, rfl, rfl⟩

/-- The commands whose byte has no effect of its own (R124, R125, R127, R128). -/
def AwaitsPayload (c : Config) (b : Byte) : Prop :=
  b ≠ c.cmdSwreset ∧ b ≠ c.cmdSlpout ∧ b ≠ c.cmdRamwr ∧ b ≠ c.cmdDispon

/-- The eight codes are pairwise distinct (R6): what the command bytes and their payloads need of it. -/
theorem wf_distinct {c : Config} (h : c.wf = true) :
    (AwaitsPayload c c.cmdCaset ∧ AwaitsPayload c c.cmdRaset ∧ AwaitsPayload c c.cmdColmod ∧
      AwaitsPayload c c.cmdMadctl) ∧
    c.cmdSlpout ≠ c.cmdSwreset ∧
    (c.cmdDispon ≠ c.cmdSwreset ∧ c.cmdDispon ≠ c.cmdSlpout ∧ c.cmdDispon ≠ c.cmdRamwr) ∧
    (c.cmdColmod ≠ c.cmdCaset ∧ c.cmdColmod ≠ c.cmdRaset) ∧
    c.cmdMadctl ≠ c.cmdCaset ∧ c.cmdMadctl ≠ c.cmdRaset ∧ c.cmdMadctl ≠ c.cmdColmod := by
  obtain ⟨-, -, -, -, -, -, hn⟩ := of_decide_eq_true h
  simp only [Config.commandCodes, List.nodup_cons, List.mem_cons, not_or, List.not_mem_nil] at hn
  unfold AwaitsPayload
  grind

theorem ctlCommand_awaitsPayload {b : Byte} {s : State} (h : AwaitsPayload s.cfg b) :
    ctlCommand b s = ctlBegin b (ctlEndContext s) := by
  obtain ⟨hswreset, hslpout, hramwr, hdispon⟩ := h
  have hcfg : (ctlBegin b (ctlEndContext s)).cfg = s.cfg := onlyController_cfg (contextBegun b s).only
  rw [ctlCommand, ctlEffect, hcfg, if_neg hswreset, if_neg hslpout, if_neg hramwr, if_neg hdispon]

/-! ## SWRESET (R122) -/

theorem ctlCommand_swreset_eq (s : State) :
    ctlCommand s.cfg.cmdSwreset s = ctlReset (ctlBegin s.cfg.cmdSwreset (ctlEndContext s)) := by
  rw [ctlCommand, ctlEffect, onlyController_cfg (contextBegun _ s).only, if_pos rfl]

/-- Settles O54: the reset comes last, so it decides every register. -/
theorem swresetCompletes : Obligations.SwresetCompletes := by
  intro s
  refine ⟨ctlCommand s.cfg.cmdSwreset s, rfl, ctlCommand_only _ s, ?_⟩
  rw [ctlCommand_swreset_eq]
  exact ⟨rfl, rfl, rfl, rfl, rfl, rfl, rfl, rfl⟩

/-! ## SLPOUT and DISPON (R123, R129) -/

/-- The controller awake (R123). -/
def awake (s : State) : State := { s with ctl := { s.ctl with sleep := false } }

/-- The controller with its display on (R129). -/
def displayOn (s : State) : State := { s with ctl := { s.ctl with disp := true } }

theorem ctlEffect_slpout {b : Byte} {s : State} (hb : b = s.cfg.cmdSlpout) (hne : b ≠ s.cfg.cmdSwreset) :
    ctlEffect b s = awake s := by
  rw [ctlEffect, if_neg hne, if_pos hb, awake]

theorem ctlEffect_dispon {b : Byte} {s : State} (hb : b = s.cfg.cmdDispon)
    (hne : b ≠ s.cfg.cmdSwreset ∧ b ≠ s.cfg.cmdSlpout ∧ b ≠ s.cfg.cmdRamwr) : ctlEffect b s = displayOn s := by
  obtain ⟨hswreset, hslpout, hramwr⟩ := hne
  rw [ctlEffect, if_neg hswreset, if_neg hslpout, if_neg hramwr, if_pos hb, displayOn]

theorem ctlFrame_slpout {s : State} (hw : s.cfg.wf = true) :
    ctlFrame s.cfg.cmdSlpout [] s = .ok (awake (ctlBegin s.cfg.cmdSlpout (ctlEndContext s))) := by
  have hcfg := onlyController_cfg (contextBegun s.cfg.cmdSlpout s).only
  obtain ⟨-, hne, -⟩ := wf_distinct hw
  exact congrArg Except.ok (ctlEffect_slpout (congrArg Config.cmdSlpout hcfg.symm) (hcfg.symm ▸ hne))

theorem ctlFrame_dispon {s : State} (hw : s.cfg.wf = true) :
    ctlFrame s.cfg.cmdDispon [] s = .ok (displayOn (ctlBegin s.cfg.cmdDispon (ctlEndContext s))) := by
  have hcfg := onlyController_cfg (contextBegun s.cfg.cmdDispon s).only
  obtain ⟨-, -, hne, -⟩ := wf_distinct hw
  exact congrArg Except.ok (ctlEffect_dispon (congrArg Config.cmdDispon hcfg.symm) (hcfg.symm ▸ hne))

/-- Settles O55: the command begins its context, and then its one bit is set. -/
theorem slpoutDisponComplete : Obligations.SlpoutDisponComplete := by
  intro s hw
  constructor
  · obtain ⟨honly, hgram, ⟨hmadctl, hcolmod, hrecv, -, hdisp⟩, hargs, hcmd, hargi, hhi, hwp, hwindow⟩ :=
      contextBegun s.cfg.cmdSlpout s
    exact ⟨_, runFrame_of_ok (ctlFrame_slpout hw), onlyController_trans honly rfl, hgram, rfl, hdisp, hcmd, hargs,
      hargi, hhi, hwp, hmadctl, hcolmod, hrecv, hwindow⟩
  · obtain ⟨honly, hgram, ⟨hmadctl, hcolmod, hrecv, hsleep, -⟩, hargs, hcmd, hargi, hhi, hwp, hwindow⟩ :=
      contextBegun s.cfg.cmdDispon s
    exact ⟨_, runFrame_of_ok (ctlFrame_dispon hw), onlyController_trans honly rfl, hgram, rfl, hsleep, hcmd, hargs,
      hargi, hhi, hwp, hmadctl, hcolmod, hrecv, hwindow⟩

/-! ## COLMOD and MADCTL (R127, R128) -/

/-- The controller with the payload byte of COLMOD in its register (R127). -/
def colmodReceived (v : Byte) (s : State) : State :=
  { s with ctl := { s.ctl with colmod := v, colmodRecv := true, argi := 1 } }

/-- The controller with the payload byte of MADCTL in its register (R128). -/
def madctlReceived (v : Byte) (s : State) : State := { s with ctl := { s.ctl with madctl := v, argi := 1 } }

/-- In the context of COLMOD the first data byte is its payload. -/
theorem ctlData_colmod (v : Byte) {s : State} (hw : s.cfg.wf = true) (hcmd : s.ctl.cmd = some s.cfg.cmdColmod)
    (hargi : s.ctl.argi = 0) : ctlData v s = .ok (colmodReceived v s) := by
  obtain ⟨⟨-, -, ⟨-, -, hramwr, -⟩, -⟩, -, -, ⟨hcaset, hraset⟩, -⟩ := wf_distinct hw
  simp [ctlData, hcmd, hcaset, hraset, hramwr, ctlColmodByte, hargi, colmodReceived]

/-- In the context of MADCTL the first data byte is its payload. -/
theorem ctlData_madctl (v : Byte) {s : State} (hw : s.cfg.wf = true) (hcmd : s.ctl.cmd = some s.cfg.cmdMadctl)
    (hargi : s.ctl.argi = 0) : ctlData v s = .ok (madctlReceived v s) := by
  obtain ⟨⟨-, -, -, -, -, hramwr, -⟩, -, -, -, hcaset, hraset, hcolmod⟩ := wf_distinct hw
  simp [ctlData, hcmd, hcaset, hraset, hramwr, hcolmod, ctlMadctlByte, hargi, madctlReceived]

theorem ctlFrame_colmod (v : Byte) {s : State} (hw : s.cfg.wf = true) :
    ctlFrame s.cfg.cmdColmod [v] s = .ok (colmodReceived v (ctlBegin s.cfg.cmdColmod (ctlEndContext s))) := by
  have hbegun := contextBegun s.cfg.cmdColmod s
  have hcfg := onlyController_cfg hbegun.only
  obtain ⟨⟨-, -, hawaits, -⟩, -⟩ := wf_distinct hw
  rw [ctlFrame, ctlCommand_awaitsPayload hawaits, ctlDatas,
    ctlData_colmod v (hcfg ▸ hw) (hcfg ▸ hbegun.cmd) hbegun.argi]
  rfl

theorem ctlFrame_madctl (v : Byte) {s : State} (hw : s.cfg.wf = true) :
    ctlFrame s.cfg.cmdMadctl [v] s = .ok (madctlReceived v (ctlBegin s.cfg.cmdMadctl (ctlEndContext s))) := by
  have hbegun := contextBegun s.cfg.cmdMadctl s
  have hcfg := onlyController_cfg hbegun.only
  obtain ⟨⟨-, -, -, hawaits⟩, -⟩ := wf_distinct hw
  rw [ctlFrame, ctlCommand_awaitsPayload hawaits, ctlDatas,
    ctlData_madctl v (hcfg ▸ hw) (hcfg ▸ hbegun.cmd) hbegun.argi]
  rfl

/-- Settles O56: the command begins its context, and its payload byte goes into its register. -/
theorem colmodMadctlComplete : Obligations.ColmodMadctlComplete := by
  intro v s hw
  constructor
  · obtain ⟨honly, hgram, ⟨hmadctl, -, -, hsleep, hdisp⟩, hargs, hcmd, -, hhi, hwp, hwindow⟩ :=
      contextBegun s.cfg.cmdColmod s
    exact ⟨_, runFrame_of_ok (ctlFrame_colmod v hw), onlyController_trans honly rfl, hgram, rfl, rfl, hmadctl, hsleep,
      hdisp, hcmd, hargs, rfl, hhi, hwp, hwindow⟩
  · obtain ⟨honly, hgram, ⟨-, hcolmod, hrecv, hsleep, hdisp⟩, hargs, hcmd, -, hhi, hwp, hwindow⟩ :=
      contextBegun s.cfg.cmdMadctl s
    exact ⟨_, runFrame_of_ok (ctlFrame_madctl v hw), onlyController_trans honly rfl, hgram, rfl, hcolmod, hrecv, hsleep,
      hdisp, hcmd, hargs, rfl, hhi, hwp, hwindow⟩

/-! ## CASET and RASET (R124, R125) -/

/-- The frame of a window command with its whole payload (R75, R124): `done` sets the window registers from it. -/
theorem ctlFrame_windowCommand {done : Ctl → Ctl} (hdone : ∀ c, (done c).cmd = c.cmd) {code : Byte} {s : State}
    (hcode : AwaitsPayload s.cfg code) (hdata : TakesWindowBytes s.cfg code done) (x y : Half) :
    ctlFrame code (windowPayload x y) s = .ok { ctlBegin code (ctlEndContext s) with
      ctl := done (wholePayload x y (ctlBegin code (ctlEndContext s)).ctl) } := by
  have hbegun := contextBegun code s
  rw [ctlFrame, ctlCommand_awaitsPayload hcode,
    ctlDatas_windowBytes hdone hdata _ (onlyController_cfg hbegun.only) hbegun.cmd, foldl_windowStep done hbegun.argi]

/-- Settles O57: the command begins its context, and its four payload bytes make its two bounds. -/
theorem windowCommandsComplete : Obligations.WindowCommandsComplete := by
  intro first last s hw
  obtain ⟨⟨hawaitsCaset, hawaitsRaset, -⟩, -⟩ := wf_distinct hw
  have hfirst := be16_hiByte_loByte first
  have hlast := be16_hiByte_loByte last
  constructor
  · obtain ⟨honly, hgram, hdisplay, -, hcmd, -, hhi, hwp, hwindow⟩ := contextBegun s.cfg.cmdCaset s
    have hframe := ctlFrame_windowCommand (done := setColumns) (fun _ => rfl) hawaitsCaset
      (takesWindowBytes_caset s.cfg) first last
    refine ⟨_, runFrame_of_ok hframe, onlyController_trans honly rfl, hgram, hdisplay, hfirst, hlast,
      ⟨rfl, rfl, rfl, rfl⟩, rfl, hcmd, hhi, hwp, fun hwhole => ?_⟩
    obtain ⟨-, -, hys, hye⟩ := hwindow hwhole
    exact ⟨hys, hye⟩
  · obtain ⟨honly, hgram, hdisplay, -, hcmd, -, hhi, hwp, hwindow⟩ := contextBegun s.cfg.cmdRaset s
    have hframe := ctlFrame_windowCommand (done := setRows) (fun _ => rfl) hawaitsRaset
      (takesWindowBytes_raset hw) first last
    refine ⟨_, runFrame_of_ok hframe, onlyController_trans honly rfl, hgram, hdisplay, hfirst, hlast,
      ⟨rfl, rfl, rfl, rfl⟩, rfl, hcmd, hhi, hwp, fun hwhole => ?_⟩
    obtain ⟨hxs, hxe, -, -⟩ := hwindow hwhole
    exact ⟨hxs, hxe⟩

end Sys2Proof.Proofs
end

section
/-! PROOFS. The pixel stream (spec/20_memory.md R55, R67; 30_encoding.md R79; 41_controller_commands.md R126, R134): no
byte of a stream changes a cell outside the window, and where a stream that fits into the window lands. -/

namespace Sys2Proof.Proofs

open Sys2Proof.Machine Sys2Proof.Safety

/-! ## Any stream (R67, R126) -/

/-- `t` is `s` after bytes of a pixel stream, whatever their number: of the registers only the count and the half pixel
have changed, and no cell outside the window, if there is one. -/
structure Streamed (s t : State) : Prop where
  only : OnlyController s t
  ctl : t.ctl = { s.ctl with wp := t.ctl.wp, hi := t.ctl.hi }
  outside : windowFormed s.ctl = true → SameOutsideWindow s t

/-- Every byte of a stream has an effect in the model: its pixels lie in the panel, or R126 gives it no effect (R52,
93 I7). -/
def StreamRuns (s : State) : Prop := windowInPanel s ∨ streamDefined s = false

section streamed
variable {s t u : State}

theorem Streamed.refl (s : State) : Streamed s s := ⟨rfl, rfl, fun _ _ _ => rfl⟩

theorem Streamed.trans (h : Streamed s t) (k : Streamed t u) : Streamed s u := by
  refine ⟨onlyController_trans h.only k.only, by rw [k.ctl, h.ctl], fun hformed a ha => ?_⟩
  have ht : gramByte t a = gramByte s a := h.outside hformed a ha
  refine (k.outside ?_ a ?_).trans ht
  · rw [h.ctl]; exact hformed
  · rw [h.ctl]; exact ha

theorem Streamed.runs (h : Streamed s t) (hs : StreamRuns s) : StreamRuns t := by
  unfold StreamRuns windowInPanel streamDefined sixteenBit at *
  rw [h.ctl, onlyController_cfg h.only]
  exact hs

theorem Streamed.display (h : Streamed s t) : SameDisplayRegs s t := by
  rw [SameDisplayRegs, h.ctl]
  exact ⟨rfl, rfl, rfl, rfl, rfl⟩

theorem Streamed.window (h : Streamed s t) : WindowIs t s.ctl.xs s.ctl.ys s.ctl.xe s.ctl.ye := by
  rw [WindowIs, h.ctl]
  exact ⟨rfl, rfl, rfl, rfl⟩

theorem Streamed.args (h : Streamed s t) : SameArgs s t := by
  rw [SameArgs, ArgsAre, h.ctl]
  exact ⟨rfl, rfl, rfl, rfl⟩

theorem Streamed.context (h : Streamed s t) : t.ctl.cmd = s.ctl.cmd ∧ t.ctl.argi = s.ctl.argi := by
  rw [h.ctl]
  exact ⟨rfl, rfl⟩

end streamed

/-- Cells outside the window keep their bytes where every cell inside it becomes unspecified (R126, 93 I1). -/
theorem memRead_foldl_freePixel_other {cfg : Config} {c : Ctl} {n a : Nat} {ks : List Nat} {m : List Host.Cell}
    (h : ∀ k ∈ ks, ¬ isPixelByte c k a) :
    memRead (ks.foldl (fun m k => freePixel cfg n (pixelX c k) (pixelY c k) m) m) a = memRead m a := by
  induction ks generalizing m with
  | nil => rfl
  | cons k ks ih =>
    obtain ⟨hhigh, hlow⟩ := not_or.1 (h k (.head _))
    rw [List.foldl_cons, ih fun j hj => h j (.tail _ hj), freePixel]
    split
    · rw [memRead_gramWrite, if_neg hlow, if_neg hhigh]
    · rfl

theorem freeWindow_outside (s : State) : SameOutsideWindow s (freeWindow s) := fun a ha =>
  congrArg (fun v : Option Byte => v.getD (Config.freeGram s.gramEpoch a))
    (memRead_foldl_freePixel_other fun k hk => ha k (List.mem_range.1 hk))

theorem pixelWritten_streamed (p : Half) {s : State} (hk : s.ctl.wp < windowCount s.ctl) :
    Streamed s (pixelWritten p s) := by
  refine ⟨rfl, rfl, fun _ a ha => ?_⟩
  obtain ⟨hhigh, hlow⟩ := not_or.1 (ha _ hk)
  exact gramByte_gramWrite_other rfl rfl hhigh hlow

theorem ctlUndefinedByte_streamed (s : State) : Streamed s (ctlUndefinedByte s) := by
  refine ⟨ctlUndefinedByte_only s, ?_, fun hformed => ?_⟩
  · unfold ctlUndefinedByte freeStreamEffect
    split <;> rfl
  · have hfree : freeStreamEffect s = freeWindow s := if_pos hformed
    rw [ctlUndefinedByte, hfree]
    exact freeWindow_outside s

/-- A byte of a stream: it waits, completes a pixel inside the window, overruns the window, or has no effect that R126
gives. -/
theorem ctlStreamByte_streamed (b : Byte) {s : State} (hs : StreamRuns s) :
    ∃ t, ctlStreamByte b s = .ok t ∧ Streamed s t := by
  cases hd : streamDefined s with
  | false => exact ⟨_, by simp [ctlStreamByte, hd], ctlUndefinedByte_streamed s⟩
  | true =>
    have hwin : windowInPanel s := hs.resolve_right (by simp [hd])
    cases hhi : s.ctl.hi with
    | none => exact ⟨_, ctlStreamByte_first hd hhi, rfl, rfl, fun _ _ _ => rfl⟩
    | some h =>
      rw [ctlStreamByte_second hd hhi]
      by_cases hk : s.ctl.wp < windowCount s.ctl
      · exact ⟨_, ctlPixel_inside hk hwin, pixelWritten_streamed _ hk⟩
      · exact ⟨_, if_neg hk, rfl, rfl, fun _ => freeWindow_outside s⟩

theorem ctlDatas_streamed (bs : List Byte) {s : State} (hw : s.cfg.wf = true) (hcmd : s.ctl.cmd = some s.cfg.cmdRamwr)
    (hs : StreamRuns s) : ∃ t, ctlDatas bs s = .ok t ∧ Streamed s t := by
  induction bs generalizing s with
  | nil => exact ⟨s, rfl, .refl s⟩
  | cons b bs ih =>
    obtain ⟨t, ht, hst⟩ := ctlStreamByte_streamed b hs
    have hcfg := onlyController_cfg hst.only
    have hcmd' : t.ctl.cmd = some t.cfg.cmdRamwr := by rw [hst.context.1, hcfg, hcmd]
    obtain ⟨u, hu, htu⟩ := ih (hcfg.symm ▸ hw) hcmd' (hst.runs hs)
    exact ⟨u, by rw [ctlDatas, ctlData_ramwr hw hcmd, ht]; exact hu, hst.trans htu⟩

/-- The frame of RAMWR is its stream in a fresh memory-write context (R126). -/
theorem ctlFrame_ramwr (stream : List Byte) {s : State} (hw : s.cfg.wf = true) (h : WholeContext s) :
    ctlFrame s.cfg.cmdRamwr stream s = ctlDatas stream (ramwrContext none s) := by
  rw [ctlFrame, ctlCommand_ramwr hw h]

/-- Settles O58, by induction on the stream: every byte of it keeps the registers and the cells outside the window. -/
theorem ramwrCompletes : Obligations.RamwrCompletes := by
  intro stream s hw hs hwhole
  obtain ⟨t, ht, hst⟩ := ctlDatas_streamed (s := ramwrContext none s) stream hw rfl hs
  obtain ⟨hcmd, hargi⟩ := hst.context
  exact ⟨t, runFrame_of_ok (ctlFrame_ramwr stream hw hwhole ▸ ht),
    onlyController_trans (t := ramwrContext none s) rfl hst.only, hst.display, hst.window, hst.args, hcmd, hargi,
    hst.outside⟩

end Sys2Proof.Proofs
end

section
/-! PROOFS. Where a stream that fits into its window lands (spec/20_memory.md R55, 30_encoding.md R79,
41_controller_commands.md R126, R134): after RAMWR, and over WRITE_PIXELS calls that go on from one another. -/

namespace Sys2Proof.Proofs

open Sys2Proof.Machine Sys2Proof.Safety

/-! ## The cells of a window (R79, R126) -/

/-- In a window no two pixels of a stream share a byte of GRAM, as every column is a u16 (R52). -/
theorem isPixelByte_inj {c : Ctl} {k j a : Nat} (hx : c.xs.toNat ≤ c.xe.toNat) (hk : isPixelByte c k a)
    (hj : isPixelByte c j a) : k = j := by
  have hcolumn : ∀ i, pixelX c i < 65536 := fun i => by
    have hlt : i % windowWidth c < windowWidth c := Nat.mod_lt _ (Nat.succ_pos _)
    have hlast : c.xe.toNat < 65536 := c.xe.isLt
    unfold pixelX
    unfold windowWidth at hlt ⊢
    omega
  obtain ⟨hxeq, hyeq⟩ : pixelX c k = pixelX c j ∧ pixelY c k = pixelY c j := by
    refine gramAddr_inj (hcolumn k) (hcolumn j) ?_
    rcases hk with hk | hk <;> rcases hj with hj | hj <;> omega
  have hmod : k % windowWidth c = j % windowWidth c := Nat.add_left_cancel hxeq
  have hdiv : k / windowWidth c = j / windowWidth c := Nat.add_left_cancel hyeq
  rw [← Nat.div_add_mod k (windowWidth c), hmod, hdiv, Nat.div_add_mod]

/-- Only a pixel's own two bytes of GRAM make its cell (R37, R53). -/
theorem gramPixel_congr {c : Ctl} {k : Nat} {s t : State}
    (h : ∀ a, isPixelByte c k a → gramByte t a = gramByte s a) :
    gramPixel t (pixelX c k) (pixelY c k) = gramPixel s (pixelX c k) (pixelY c k) := by
  rw [gramPixel, h _ (.inl rfl), h _ (.inr rfl), gramPixel]

/-! ## Bytes paired to pixels (R55, R79, R126) -/

/-- A state in the memory-write context whose pixels R126 places in the panel. -/
structure TakesPixels (s : State) : Prop where
  wf : s.cfg.wf = true
  context : s.ctl.cmd = some s.cfg.cmdRamwr
  defined : streamDefined s = true
  window : windowInPanel s

theorem takesPixels {s : State} (hw : s.cfg.wf = true) (hcmd : s.ctl.cmd = some s.cfg.cmdRamwr)
    (h16 : sixteenBit s = true) (hwin : windowInPanel s) : TakesPixels s := by
  have hformed : windowFormed s.ctl = true := by
    obtain ⟨hx, -, hy, -⟩ := hwin
    exact decide_eq_true ⟨hx, hy⟩
  exact ⟨hw, hcmd, Bool.and_eq_true_iff.2 ⟨h16, hformed⟩, hwin⟩

/-- `t` is `s` once its half pixel and the bytes after it, `bytes` together, have been paired up: each pair is in the
window's next cell, an odd last byte waits, and nothing else of the machine has changed. -/
structure PixelsPlaced (bytes : List Byte) (s t : State) : Prop where
  frame : t = { s with
    gram := t.gram
    ctl := { s.ctl with wp := s.ctl.wp + bytes.length / 2, hi := (bytes.drop (2 * (bytes.length / 2))).head? } }
  placed : ∀ k, k < bytes.length / 2 →
    gramPixel t (pixelX s.ctl (s.ctl.wp + k)) (pixelY s.ctl (s.ctl.wp + k)) = streamPixel bytes k
  others : ∀ a, (∀ k, k < bytes.length / 2 → ¬ isPixelByte s.ctl (s.ctl.wp + k) a) → gramByte t a = gramByte s a

/-- A half pixel by itself waits. -/
theorem pixelsPlaced_waiting (s : State) : PixelsPlaced s.ctl.hi.toList s s := by
  have hnone : s.ctl.hi.toList.length / 2 = 0 := by cases s.ctl.hi <;> simp
  refine ⟨?_, fun k hk => absurd hk (by omega), fun _ _ => rfl⟩
  have hhead : (s.ctl.hi.toList.drop 0).head? = s.ctl.hi := by cases s.ctl.hi <;> rfl
  rw [hnone, Nat.mul_zero, hhead]
  rfl

/-- A whole pixel, and the bytes after it. -/
theorem PixelsPlaced.cons {h l : Byte} {bytes : List Byte} {s t : State} (hx : s.ctl.xs.toNat ≤ s.ctl.xe.toNat)
    (hp : PixelsPlaced bytes (pixelWritten (be16 h l) s) t) : PixelsPlaced (h :: l :: bytes) s t := by
  obtain ⟨hframe, hplaced, hothers⟩ := hp
  have hlen : (h :: l :: bytes).length / 2 = bytes.length / 2 + 1 := by
    rw [List.length_cons, List.length_cons]
    omega
  have hnext : ∀ k, (pixelWritten (be16 h l) s).ctl.wp + k = s.ctl.wp + (k + 1) := fun k => by
    show s.ctl.wp + 1 + k = _
    omega
  rw [show (pixelWritten (be16 h l) s).ctl.wp + bytes.length / 2 = s.ctl.wp + (bytes.length / 2 + 1) from hnext _]
    at hframe
  refine ⟨?_, fun k hk => ?_, fun a ha => ?_⟩
  · rw [hlen]
    exact hframe
  · rw [hlen] at hk
    cases k with
    | zero =>
      have hkept : gramPixel t (pixelX s.ctl s.ctl.wp) (pixelY s.ctl s.ctl.wp) =
          gramPixel (pixelWritten (be16 h l) s) (pixelX s.ctl s.ctl.wp) (pixelY s.ctl s.ctl.wp) := by
        refine gramPixel_congr fun a ha => hothers a fun k _ hk => ?_
        rw [hnext] at hk
        have := isPixelByte_inj hx ha hk
        omega
      rw [Nat.add_zero, hkept]
      exact gramPixel_gramWrite rfl
    | succ k => exact hnext k ▸ hplaced k (by omega)
  · have hfirst : ¬ isPixelByte s.ctl s.ctl.wp a := ha 0 (by omega)
    obtain ⟨hhigh, hlow⟩ := not_or.1 hfirst
    refine (hothers a fun k hk => ?_).trans (gramByte_gramWrite_other rfl rfl hhigh hlow)
    rw [hnext]
    exact ha (k + 1) (by omega)

/-- The bytes of a stream that fits into what is left of the window (R126). -/
theorem ctlDatas_places (bs : List Byte) {s : State} (hs : TakesPixels s)
    (hroom : s.ctl.wp + (s.ctl.hi.toList ++ bs).length / 2 ≤ windowCount s.ctl) :
    ∃ t, ctlDatas bs s = .ok t ∧ PixelsPlaced (s.ctl.hi.toList ++ bs) s t := by
  induction bs generalizing s with
  | nil => exact ⟨s, rfl, by rw [List.append_nil]; exact pixelsPlaced_waiting s⟩
  | cons b bs ih =>
    obtain ⟨hw, hcmd, hd, hwin⟩ := hs
    cases hhi : s.ctl.hi with
    | none =>
      have hdata : ctlData b s = .ok (halfReceived b s) := by rw [ctlData_ramwr hw hcmd, ctlStreamByte_first hd hhi]
      rw [hhi] at hroom
      obtain ⟨t, ht, hframe, hplaced, hothers⟩ := ih (s := halfReceived b s) ⟨hw, hcmd, hd, hwin⟩ hroom
      exact ⟨t, by rw [ctlDatas, hdata]; exact ht, hframe, hplaced, hothers⟩
    | some h =>
      have hlen : ((some h).toList ++ b :: bs).length / 2 = bs.length / 2 + 1 := by
        show (bs.length + 1 + 1) / 2 = _
        omega
      rw [hhi, hlen] at hroom
      have hdata : ctlData b s = .ok (pixelWritten (be16 h b) s) := by
        rw [ctlData_ramwr hw hcmd, ctlStreamByte_second hd hhi, ctlPixel_inside (by omega) hwin]
      obtain ⟨t, ht, hplaced⟩ := ih (s := pixelWritten (be16 h b) s) ⟨hw, hcmd, hd, hwin⟩ (by
        show s.ctl.wp + 1 + bs.length / 2 ≤ windowCount s.ctl
        omega)
      exact ⟨t, by rw [ctlDatas, hdata]; exact ht, hplaced.cons hwin.1⟩

/-- Settles O60: the stream of a fresh context starts at the window's first cell, with no half pixel before it. -/
theorem ramwrFillsWindow : Obligations.RamwrFillsWindow := by
  intro stream s hw hwin hwhole h16 hroom
  have hs : TakesPixels (ramwrContext none s) := takesPixels hw rfl h16 hwin
  obtain ⟨t, ht, hframe, hplaced, hothers⟩ := ctlDatas_places stream hs ((Nat.zero_add _).trans_le hroom)
  have hnone : (ramwrContext none s).ctl.hi.toList ++ stream = stream := rfl
  have hzero : ∀ k, (ramwrContext none s).ctl.wp + k = k := Nat.zero_add
  simp only [hnone, hzero] at hframe hplaced hothers
  exact ⟨t, runFrame_of_ok (ctlFrame_ramwr stream hw hwhole ▸ ht), congrArg (fun u : State => u.ctl.wp) hframe,
    congrArg (fun u : State => u.ctl.hi) hframe, hplaced, hothers⟩

/-! ## WRITE_PIXELS (R106, R145) -/

/-- Data bytes have the same effect whatever the trace and the waiting answers are (R37, R121). -/
theorem ctlDatas_io {bs : List Byte} {s t : State} (h : ctlDatas bs s = .ok t) (ti : List TxAns) (tr : List Event) :
    ctlDatas bs { s with txIn := ti, trace := tr } = .ok { t with txIn := ti, trace := tr } := by
  induction bs generalizing s with
  | nil => exact congrArg (Except.map fun u : State => { u with txIn := ti, trace := tr }) h
  | cons b bs ih =>
    rw [ctlDatas] at h ⊢
    split at h
    · next u hu => rw [ctlData_io b s s.txIn s.trace ti tr hu]; exact ih h
    · cases h

/-- The bytes of a stream, all answered ok, are sent where the controller takes them. -/
theorem sends_of_ctlDatas {bs : List Byte} {s t : State} {rest : List TxAns} (hd : s.dc = .data)
    (htx : TransfersOk s bs.length rest) (h : ctlDatas bs s = .ok t) :
    Sends bs s { t with txIn := rest, trace := (bs.map fun b => Event.tx b true).reverse ++ s.trace } :=
  (sendBytes_eq_ok_iff (frame := .stream) (close := closeStream) (i := 0)).1
    (sendBytes_ok hd htx fun ti tr => ctlDatas_io h ti tr)

/-- Bytes of a stream that fit into what is left of the window are sent and placed (R106, R126). -/
theorem sends_places (bytes : List Byte) {s : State} {rest : List TxAns} (hs : StreamReady s) (hw : s.cfg.wf = true)
    (h16 : sixteenBit s = true) (htx : TransfersOk s bytes.length rest)
    (hroom : s.ctl.wp + (s.ctl.hi.toList ++ bytes).length / 2 ≤ windowCount s.ctl) :
    ∃ t ti tr, Sends bytes s { t with txIn := ti, trace := tr } ∧ PixelsPlaced (s.ctl.hi.toList ++ bytes) s t := by
  obtain ⟨t, ht, hplaced⟩ := ctlDatas_places bytes (takesPixels hw hs.context h16 hs.window) hroom
  exact ⟨t, _, _, sends_of_ctlDatas hs.dataMode htx ht, hplaced⟩

/-- Settles O37: the bytes are sent one after another, and the controller pairs them up behind the half pixel. -/
theorem writePixelsPlacesPixels : Obligations.WritePixelsPlacesPixels := by
  intro bytes s rest hs hw h16 htx hroom
  obtain ⟨t, ti, tr, hsends, hframe, hplaced, hothers⟩ := sends_places bytes hs hw h16 htx hroom
  obtain ⟨hexec, -⟩ := exec_writePixels_ok_iff.2 ⟨hs.ready, hs.isOpen, _, hsends, rfl⟩
  exact ⟨_, hexec, congrArg (fun u : State => u.ctl.wp) hframe, congrArg (fun u : State => u.ctl.hi) hframe, hplaced,
    hothers⟩

/-! ## A window and its bytes in chunks (R134) -/

/-- Bytes sent before a call returns could have been sent after its return. -/
theorem Sends.after_returnOk {bs : List Byte} {s t : State} (r : Option Half) (h : Sends bs s t) :
    Sends bs (returnOk r s) (returnOk r t) := by
  induction h with
  | nil => exact .nil
  | cons hb _ ih => exact .cons (by rw [tx_returnOk, hb]; rfl) ih

theorem Sends.split {xs ys : List Byte} {s u : State} (h : Sends (xs ++ ys) s u) :
    ∃ t, Sends xs s t ∧ Sends ys t u := by
  induction xs generalizing s with
  | nil => exact ⟨s, .nil, h⟩
  | cons x xs ih =>
    obtain _ | ⟨hb, hrest⟩ := h
    obtain ⟨t, ht, hu⟩ := ih hrest
    exact ⟨t, .cons hb ht, hu⟩

/-- Bytes sent leave the stream open, in the same driver state (R106). -/
theorem Sends.keeps {bs : List Byte} {s t : State} (h : Sends bs s t) :
    t.drvState = s.drvState ∧ t.streamOpen = s.streamOpen := by
  induction h with
  | nil => exact ⟨rfl, rfl⟩
  | @cons b _ s u _ hb _ ih =>
    obtain ⟨hdrv, hopen⟩ := ih
    rcases tx_cases b s with ⟨ok, v, e, -, -, honly⟩ | ⟨f, v, e⟩ <;> rw [e] at hb <;> cases hb
    have hbyte : u.drvState = s.drvState ∧ u.streamOpen = s.streamOpen := by
      rw [honly]
      exact ⟨rfl, rfl⟩
    exact ⟨hdrv.trans hbyte.1, hopen.trans hbyte.2⟩

/-- WRITE_PIXELS calls whose bytes, sent in one stream, are all answered ok leave what that stream leaves (R248). -/
theorem runHost_writePixels {chunks : List (List Byte)} {s u : State} (r : Option Half) (hready : s.drvState = .ready)
    (hopen : s.streamOpen = true) (h : Sends chunks.flatten s u) :
    ∃ r', runHost (chunks.map .writePixels) (returnOk r s) = some (returnOk r' u) := by
  induction chunks generalizing r s with
  | nil =>
    cases h
    exact ⟨r, rfl⟩
  | cons c cs ih =>
    obtain ⟨t, ht, hu⟩ := Sends.split h
    obtain ⟨hexec, -⟩ := exec_writePixels_ok_iff (s := returnOk r s).2 ⟨hready, hopen, _, ht.after_returnOk r, rfl⟩
    obtain ⟨hdrv, hstream⟩ := ht.keeps
    obtain ⟨r', hrun⟩ := ih none (hdrv.trans hready) (hstream.trans hopen) hu
    refine ⟨r', ?_⟩
    rw [List.map_cons, runHost, hexec]
    exact hrun

/-- The cell in column `i` and row `j` of a window is the cell of pixel `j * width + i` (R126, R134). -/
theorem pixel_at {c : Ctl} {i : Nat} (j : Nat) (hi : i < windowWidth c) :
    pixelX c (j * windowWidth c + i) = c.xs.toNat + i ∧ pixelY c (j * windowWidth c + i) = c.ys.toNat + j := by
  have hpos : 0 < windowWidth c := Nat.succ_pos _
  have hmod : (j * windowWidth c + i) % windowWidth c = i := by rw [Nat.mul_add_mod', Nat.mod_eq_of_lt hi]
  have hdiv : (j * windowWidth c + i) / windowWidth c = j := by
    rw [Nat.mul_comm, Nat.mul_add_div hpos, Nat.div_eq_of_lt hi, Nat.add_zero]
  rw [pixelX, pixelY, hmod, hdiv]
  exact ⟨rfl, rfl⟩

theorem pixel_index_lt {c : Ctl} {i j : Nat} (hi : i < windowWidth c) (hj : j < windowHeight c) :
    j * windowWidth c + i < windowCount c :=
  calc j * windowWidth c + i < j * windowWidth c + windowWidth c := Nat.add_lt_add_left hi _
    _ = windowWidth c * (j + 1) := by rw [Nat.mul_succ, Nat.mul_comm]
    _ ≤ windowCount c := Nat.mul_le_mul_left _ hj

/-- Settles O41: SET_WINDOW opens the stream at the window's first cell, the chunks are one stream, and it has as many
pixels as the window has cells. -/
theorem windowCompleteness : Obligations.WindowCompleteness := by
  intro x0 y0 x1 y1 chunks s rest hready hw hr hb hhalf h16 hlen htx
  obtain ⟨r, t, hset, ht, hwp, hhi, hstream, hxs, hxe, hys, hye⟩ :=
    exec_setWindow (rest := List.replicate chunks.flatten.length .ok ++ rest) hready hw hr hb
      (by rw [TransfersOk, htx, List.replicate_add, List.append_assoc])
  have hwidth : windowWidth t.ctl = x1.toNat - x0.toNat + 1 := by rw [windowWidth, hxs, hxe]
  have hheight : windowHeight t.ctl = y1.toNat - y0.toNat + 1 := by rw [windowHeight, hys, hye]
  have hpixels : chunks.flatten.length / 2 = windowCount t.ctl := by
    rw [hlen, ← hwidth, ← hheight, windowCount, Nat.mul_div_cancel _ (by decide)]
  have hcfg : t.cfg = s.cfg := ht.cfg.trans (closeStream_cfg s)
  obtain ⟨u, ti, tr, hsends, hframe, hplaced, hothers⟩ :=
    sends_places chunks.flatten hstream (hcfg.symm ▸ hw) ((sixteenBit_delivered ht).trans h16) ht.txIn
      (by rw [hwp, hhi, Nat.zero_add]; exact hpixels.le)
  obtain ⟨r', hrun⟩ := runHost_writePixels r hstream.ready hstream.isOpen hsends
  have hzero : ∀ k, t.ctl.wp + k = k := fun k => by rw [hwp, Nat.zero_add]
  have hnone : t.ctl.hi.toList ++ chunks.flatten = chunks.flatten := by rw [hhi]; rfl
  simp only [hzero, hnone, hpixels] at hplaced hothers
  refine ⟨_, by rw [runHost, hset]; exact hrun, rfl, fun i j hi hj => ?_, fun a ha => ?_⟩
  · rw [← hwidth] at hi
    rw [← hheight] at hj
    obtain ⟨hx, hy⟩ := pixel_at (c := t.ctl) j hi
    rw [← hwidth, ← hxs, ← hys, ← hx, ← hy]
    exact hplaced _ (pixel_index_lt hi hj)
  · have hkept : gramByte t a = gramByte s a := by
      obtain ⟨hgram, hepoch⟩ := closeStream_gram hhalf
      rw [gramByte, ht.gram, ht.gramEpoch, hgram, hepoch, gramByte]
    refine (hothers a fun k hk => ?_).trans hkept
    obtain ⟨hhigh, hlow⟩ := ha (k % windowWidth t.ctl) (k / windowWidth t.ctl) (hwidth ▸ Nat.mod_lt _ (Nat.succ_pos _))
      (hheight ▸ Nat.div_lt_of_lt_mul hk)
    rw [isPixelByte, pixelX, pixelY, hxs, hys]
    exact not_or.2 ⟨hhigh, hlow⟩

end Sys2Proof.Proofs
end

section
/-! PROOFS. SET_WINDOW once and again (spec/41_controller_commands.md R133): every register of the controller is then one
of its operands, a constant, or untouched. -/

namespace Sys2Proof.Proofs

open Sys2Proof.Machine Sys2Proof.Safety

/-- The controller's registers after SET_WINDOW (R143): the memory-write context at the first pixel of the window, with
the payload of RASET, the later window command, still in `ctl_args`. -/
def windowCtl (cfg : Config) (x0 y0 x1 y1 : Half) (c : Ctl) : Ctl :=
  { c with
    cmd := some cfg.cmdRamwr, argi := 0, arg0 := hiByte y0, arg1 := loByte y0, arg2 := hiByte y1, arg3 := loByte y1
    xs := x0, xe := x1, ys := y0, ye := y1, wp := 0, hi := none }

/-- Each register after SET_WINDOW is accounted for. -/
theorem eq_windowCtl {cfg : Config} {x0 y0 x1 y1 : Half} {s t : State} (hcmd : t.ctl.cmd = some cfg.cmdRamwr)
    (hargi : t.ctl.argi = 0) (hargs : ArgsAre t (hiByte y0) (loByte y0) (hiByte y1) (loByte y1))
    (hwindow : WindowIs t x0 y0 x1 y1) (hdisplay : SameDisplayRegs s t) (hwp : t.ctl.wp = 0) (hhi : t.ctl.hi = none) :
    t.ctl = windowCtl cfg x0 y0 x1 y1 s.ctl := by
  obtain ⟨harg0, harg1, harg2, harg3⟩ := hargs
  obtain ⟨hxs, hxe, hys, hye⟩ := hwindow
  obtain ⟨hmadctl, hcolmod, hrecv, hsleep, hdisp⟩ := hdisplay
  show Ctl.mk t.ctl.cmd t.ctl.argi t.ctl.arg0 t.ctl.arg1 t.ctl.arg2 t.ctl.arg3 t.ctl.xs t.ctl.xe t.ctl.ys t.ctl.ye
    t.ctl.madctl t.ctl.colmod t.ctl.colmodRecv t.ctl.sleep t.ctl.disp t.ctl.wp t.ctl.hi = _
  rw [hcmd, hargi, harg0, harg1, harg2, harg3, hxs, hxe, hys, hye, hmadctl, hcolmod, hrecv, hsleep, hdisp, hwp, hhi,
    windowCtl]

/-- A command byte other than SWRESET leaves `ctl_args` as the last payload did (R121). -/
theorem ctlCommand_args {b : Byte} {s : State} (hb : b ≠ s.cfg.cmdSwreset) : SameArgs s (ctlCommand b s) := by
  obtain ⟨-, -, hargs, -⟩ := ctlCutShort_keeps s
  rw [SameArgs, ArgsAre, ctlCommand_ctl hb]
  exact hargs

/-- What OPEN_STREAM does at the controller is the memory-write command byte (R105, R126). -/
theorem ends_openStream_ctl {s : State} (hw : s.cfg.wf = true) (hb : s.busSel = false) :
    Ends openStream (fun _ t => ∃ u, u.cfg = s.cfg ∧ u.ctl = s.ctl ∧ t.ctl = (ctlCommand s.cfg.cmdRamwr u).ctl) s := by
  simp only [openStream, ends_bind, ends_look, ends_update]
  refine ends_requireIdleBus hb ?_
  refine (ends_tx_cmd (s := selectBus (driveCmd s)) hw rfl).mono fun ok t ht => ends_ite (fun hok => ?_) fun _ => ?_
  · simp only [ends_bind, ends_update]
    obtain rfl := ht hok
    exact ⟨sent s.cfg.cmdRamwr (selectBus (driveCmd s)), by simp, by simp, rfl⟩
  · simp only [ends_bind, ends_update]
    exact ends_raiseTransfer

/-- The frames of SET_WINDOW leave RASET's payload in `ctl_args` (R75, R125, R143). -/
theorem ends_windowFrames_args {x0 y0 x1 y1 : Half} {s : State} (hw : s.cfg.wf = true) (hb : s.busSel = false) :
    Ends (windowFrames x0 y0 x1 y1)
      (fun _ t => ArgsAre t (hiByte y0) (loByte y0) (hiByte y1) (loByte y1) ∧ t.ctl.argi = 0) s := by
  simp only [windowFrames, ends_bind, ends_look]
  refine (ends_columns hw hb).mono ?_
  rintro - t ⟨ht, -⟩
  have htcfg : t.cfg = s.cfg := ht.cfg
  rw [← htcfg] at hw ⊢
  obtain ⟨⟨-, -, -, -, -, hramwr, -⟩, -, hswreset, -⟩ := wf_codes hw
  refine (ends_windowCommand hw ht.busSel hramwr hswreset (takesWindowBytes_raset hw)).mono ?_
  rintro - u ⟨hu, v, -, -, huctl⟩
  have hucfg : u.cfg = t.cfg := hu.cfg
  refine (ends_openStream_ctl (hucfg ▸ hw) hu.busSel).mono ?_
  rintro - w ⟨x, hxcfg, hxctl, hwctl⟩
  have hne : u.cfg.cmdRamwr ≠ x.cfg.cmdSwreset := by
    obtain ⟨⟨hne, -⟩, -⟩ := wf_codes hw
    rw [hxcfg, hucfg]
    exact hne.symm
  have hargs := ctlCommand_args hne
  rw [SameArgs, hxctl, huctl, ArgsAre, ← hwctl] at hargs
  exact ⟨hargs, hwctl ▸ ctlCommand_argi hne⟩

/-- SET_WINDOW with every transfer ok (R143): all the controller's registers, and what the next SET_WINDOW needs. -/
theorem exec_setWindow_ctl {x0 y0 x1 y1 : Half} {s : State} {rest : List TxAns} (hready : s.drvState = .ready)
    (hw : s.cfg.wf = true) (hr : windowInRange s.cfg x0 y0 x1 y1 = true) (hb : s.busSel = s.streamOpen)
    (htx : TransfersOk s 11 rest) :
    ∃ t, exec (.setWindow x0 y0 x1 y1) s = .next (returnOk none t) ∧
      Delivered (windowEvents s.cfg x0 y0 x1 y1) rest (closeStream s) t ∧ t.busSel = t.streamOpen ∧
      t.ctl = windowCtl s.cfg x0 y0 x1 y1 s.ctl := by
  have hidle := closeStream_busSel s hb
  have hcfg := closeStream_cfg s
  have hw' : (closeStream s).cfg.wf = true := hcfg.symm ▸ hw
  obtain ⟨⟨⟩, t, hframes, ⟨⟨ht, hwp, hhi⟩, hports, hcmd, hwindow⟩, hargs, hargi⟩ :=
    ((returns_windowFrames (x0 := x0) (y0 := y0) (x1 := x1) (y1 := y1) (rest := rest) hw' hidle
      (closeStream_txIn s ▸ htx)).and_ends (ends_windowFrames hw' hidle)).and_ends (ends_windowFrames_args hw' hidle)
  have hbody : setWindowBody x0 y0 x1 y1 s = .ok none t := by
    have hlegal : requireReady s = .ok () s := if_pos (decide_eq_true hready)
    have hrange : requireWindow x0 y0 x1 y1 s = .ok () s := if_pos hr
    have hwindowBody : windowBody x0 y0 x1 y1 s = .ok () t := by rw [windowBody, hframes]
    simp only [setWindowBody, op_bind, op_pure, hlegal, hrange, hwindowBody]
  refine ⟨t, ?_, hcfg ▸ ht, hports.busSel.trans hports.streamOpen.symm, ?_⟩
  · show runOperation .setWindow none (setWindowBody x0 y0 x1 y1) s = _
    rw [runOperation, hbody]
  · rw [← closeStream_ctl s, ← hcfg]
    exact eq_windowCtl hcmd hargi hargs hwindow ht.display hwp hhi

/-- GRAM as SET_WINDOW finds it (93 I2): only a half pixel in the stream it closes would change it. -/
theorem sameGram_setWindow {es : List Event} {rest : List TxAns} {s t : State} (h : NoHalfPixel s)
    (ht : Delivered es rest (closeStream s) t) : SameGram s t := by
  obtain ⟨hgram, hepoch⟩ := closeStream_gram h
  intro a
  rw [gramByte, ht.gram, ht.gramEpoch, hgram, hepoch, gramByte]

/-- Settles O35: `windowCtl` of the same operands is idempotent, and the second SET_WINDOW closes a stream that holds no
half pixel. -/
theorem windowIdempotent : Obligations.WindowIdempotent := by
  intro x0 y0 x1 y1 s rest hready hw hr hb htx
  obtain ⟨t, hexec, ht, htb, htctl⟩ :=
    exec_setWindow_ctl (rest := List.replicate 11 .ok ++ rest) hready hw hr hb (by rw [TransfersOk, htx]; rfl)
  have hcfg : t.cfg = s.cfg := ht.cfg.trans (closeStream_cfg s)
  have htready : t.drvState = .ready := by rw [ht.drvState, closeStream_drvState, hready]
  have hthalf : NoHalfPixel (returnOk none t) := fun _ => congrArg Ctl.hi htctl
  obtain ⟨u, hexec', hu, -, huctl⟩ :=
    exec_setWindow_ctl (s := returnOk none t) htready (hcfg.symm ▸ hw) (hcfg.symm ▸ hr) htb ht.txIn
  rw [returnOk_cfg, returnOk_ctl, hcfg, htctl] at huctl
  refine ⟨_, _, hexec, hexec', huctl.trans htctl.symm, ?_, congrArg Ctl.wp huctl, congrArg Ctl.hi huctl,
    fun hhalf => (sameGram_setWindow hhalf ht :), (sameGram_setWindow hthalf hu :)⟩
  exact ⟨congrArg Ctl.xs huctl, congrArg Ctl.xe huctl, congrArg Ctl.ys huctl, congrArg Ctl.ye huctl⟩

end Sys2Proof.Proofs
end

section
/-! PROOFS. The ends that release an open stream (spec/42_driver_ops.md R143, R147, R151; 40_framing.md R107;
60_exceptions.md R216): END_WRITE, and SET_WINDOW out of range. -/

namespace Sys2Proof.Proofs

open Sys2Proof.Machine Sys2Proof.Safety

/-! ## What CLOSE_STREAM and the abort sequence change (R107, R216) -/

/-- CLOSE_STREAM as one update: the lines, the release in the trace, and of the controller GRAM alone. -/
theorem closeStream_frame (s : State) : closeStream s = { s with
    busSel := if s.streamOpen then false else s.busSel, streamOpen := false
    trace := (releaseEvents s).reverse ++ s.trace
    gram := (closeStream s).gram, gramEpoch := (closeStream s).gramEpoch, freeCtr := (closeStream s).freeCtr } := by
  rcases closeStream_cases s with ⟨ho, e⟩ | ⟨ho, g, k, n, e⟩
  · cases s
    simp_all [releaseEvents]
  · rw [e]
    simp [releaseEvents, releaseBus, ho]

theorem closeStream_events (s : State) : (closeStream s).events = s.events ++ releaseEvents s := by
  rw [closeStream_frame]
  simp [State.events]

theorem closeStream_sameDecoder (s : State) : SameDecoder s (closeStream s) := by
  rw [closeStream_frame]
  exact sameDecoder_refl s

theorem closeStream_sameOtherInputs (s : State) : SameOtherInputs s (closeStream s) := by
  rw [closeStream_frame]
  exact ⟨rfl, rfl, rfl, rfl, rfl, rfl, rfl⟩

/-- Where a source is open, its close is the last event of an abort (R216). -/
def sourceCloseEvents (s : State) : List Event := if s.decSrcOpen then [.srcClose] else []

theorem closeSource_frame (s : State) : closeSource s = { s with
    decSrcOpen := false, trace := (sourceCloseEvents s).reverse ++ s.trace } := by
  unfold closeSource sourceCloseEvents
  split
  · rfl
  · cases s
    simp_all

/-- The abort sequence as one update (R216): the stream and the source closed, the status written. -/
theorem takeAbort_frame {info : StInfo} {code : StCode} (hcode : code.statusOnly = false) (s : State) :
    takeAbort info code s = { s with
      busSel := if s.streamOpen then false else s.busSel, streamOpen := false, decSrcOpen := false
      trace := (releaseEvents s ++ sourceCloseEvents s).reverse ++ s.trace
      gram := (closeStream s).gram, gramEpoch := (closeStream s).gramEpoch, freeCtr := (closeStream s).freeCtr
      stCode := code, stInfo := info, result := none, seq := .idle } := by
  have hsrc : (closeStream s).decSrcOpen = s.decSrcOpen := sameDecoder_decSrcOpen (closeStream_sameDecoder s)
  simp only [takeAbort, hcode, Bool.false_eq_true, if_false]
  rw [closeSource_frame, sourceCloseEvents, hsrc, closeStream_frame]
  simp [sourceCloseEvents]

section aborted
variable {info : StInfo} {code : StCode} {s : State} (hcode : code.statusOnly = false)
include hcode

theorem takeAbort_endedWith : EndedWith (takeAbort info code s) code info := by
  rw [takeAbort_frame hcode]
  exact ⟨rfl, rfl, rfl, rfl⟩

theorem takeAbort_events : (takeAbort info code s).events = s.events ++ releaseEvents s ++ sourceCloseEvents s := by
  rw [takeAbort_frame hcode]
  simp [State.events]

/-- Where no more than the stream holds the bus, the abort sequence frees it (R25, R216). -/
theorem takeAbort_busReleased (hb : s.streamOpen = false → s.busSel = false) : BusReleased (takeAbort info code s) := by
  rw [takeAbort_frame hcode]
  refine ⟨?_, rfl⟩
  show (if s.streamOpen then false else s.busSel) = false
  split
  · rfl
  · next ho => exact hb (Bool.eq_false_iff.2 ho)

theorem takeAbort_sameDecoder (hsrc : s.decSrcOpen = false) : SameDecoder s (takeAbort info code s) := by
  rw [takeAbort_frame hcode]
  exact ⟨rfl, rfl, rfl, rfl, rfl, rfl, rfl, hsrc.symm, rfl, rfl, rfl, rfl, rfl, rfl, rfl⟩

/-- Of GRAM the abort sequence changes what the close of the stream does (R216, 93 I2). -/
theorem gramByte_takeAbort (a : Nat) : gramByte (takeAbort info code s) a = gramByte (closeStream s) a := by
  rw [takeAbort_frame hcode]
  rfl

end aborted

/-- Where no source is open, an abort closes none. -/
theorem sourceCloseEvents_closed {s : State} (h : s.decSrcOpen = false) : sourceCloseEvents s = [] := by
  simp [sourceCloseEvents, h]

/-! ## GRAM where a stream is closed (R55, 93 I2) -/

/-- With no half pixel waiting, closing the stream leaves GRAM as it is. -/
theorem sameGram_closeStream {s : State} (h : NoHalfPixel s) : SameGram s (closeStream s) := by
  obtain ⟨hgram, hepoch⟩ := closeStream_gram h
  intro a
  rw [gramByte, hgram, hepoch, gramByte]

/-- A cell that becomes unspecified changes no other. -/
theorem memRead_freePixel_other {c : Config} {n x y a : Nat} {m : List Host.Cell} (h : a ≠ gramAddr x y)
    (h' : a ≠ gramAddr x y + 1) : memRead (freePixel c n x y m) a = memRead m a := by
  unfold freePixel
  split
  · rw [memRead_gramWrite, if_neg h', if_neg h]
  · rfl

/-- The release of the line changes no GRAM, so only the half pixel's end can. -/
theorem gramByte_closeStream {s : State} {a : Nat} (h : gramByte (ctlHalfPixel (releaseBus s)) a = gramByte s a) :
    gramByte (closeStream s) a = gramByte s a := by
  unfold closeStream
  split
  · exact h
  · rfl

/-- In a defined stream with room left, its end changes at most the cell of the half pixel. -/
theorem gramByte_ctlHalfPixel_other {s : State} {a : Nat} (hd : streamDefined s = true)
    (hk : s.ctl.wp < windowCount s.ctl) (ha : ¬ isPixelByte s.ctl s.ctl.wp a) :
    gramByte (ctlHalfPixel s) a = gramByte s a := by
  obtain ⟨hhigh, hlow⟩ := not_or.1 ha
  unfold ctlHalfPixel
  rw [if_pos hd, if_pos hk]
  split
  · exact congrArg (fun v : Option Byte => v.getD (Config.freeGram s.gramEpoch a)) (memRead_freePixel_other hhigh hlow)
  · rfl

theorem gramByte_closeStream_other {s : State} {a : Nat} (hd : streamDefined s = true)
    (hk : s.ctl.wp < windowCount s.ctl) (ha : ¬ isPixelByte s.ctl s.ctl.wp a) :
    gramByte (closeStream s) a = gramByte s a :=
  gramByte_closeStream (gramByte_ctlHalfPixel_other (s := releaseBus s) hd hk ha)

/-! ## END_WRITE (R147) -/

/-- Settles O40: END_WRITE is CLOSE_STREAM and the return. -/
theorem endWriteCompletes : Obligations.EndWriteCompletes := by
  intro s hready
  refine ⟨_, exec_endWrite hready, ⟨rfl, rfl, rfl, rfl⟩, closeStream_events s, closeStream_streamOpen s, ?_,
    (closeStream_drvState s).trans hready, closeStream_dc s, closeStream_rstLvl s, closeStream_ctl s,
    sameGram_closeStream, fun hd hk _ ha => gramByte_closeStream_other hd hk ha, closeStream_cfg s,
    closeStream_sameDecoder s, closeStream_sameOtherInputs s, closeStream_txIn s⟩
  rw [returnOk_busSel, closeStream_frame]

/-! ## SET_WINDOW out of range (R143) -/

/-- An operation whose body raises ends in the abort sequence (R13, R216). -/
theorem runOperation_raise {op : OpName} {src : Option Byte} {body : Op (Option Half)} {code : StCode}
    {reason : Option Reason} {detail : Detail} {s t : State} (h : body s = .error (.raise code reason detail) t) :
    runOperation op src body s = .next (takeAbort ⟨some op, src, reason, detail⟩ code t) := by rw [runOperation, h]

/-- Settles O33: the check raises in the state it finds, and the abort sequence closes the stream. -/
theorem setWindowRangeError : Obligations.SetWindowRangeError := by
  intro x0 y0 x1 y1 s hready hsrc hrange
  have hbody : setWindowBody x0 y0 x1 y1 s = .error (.raise .windowRangeError none (.window x0 y0 x1 y1)) s := by
    have hlegal : requireReady s = .ok () s := if_pos (decide_eq_true hready)
    have hcheck : requireWindow x0 y0 x1 y1 s = .error (.raise .windowRangeError none (.window x0 y0 x1 y1)) s :=
      if_neg (by simpa [windowInRange] using hrange)
    simp only [setWindowBody, op_bind, hlegal, hcheck]
  refine ⟨_, runOperation_raise (op := .setWindow) (src := none) hbody, takeAbort_endedWith rfl, ?_, ?_⟩
  · rw [takeAbort_events rfl, sourceCloseEvents_closed hsrc, List.append_nil]
  have hdecoder := takeAbort_sameDecoder
    (info := ⟨some .setWindow, none, none, .window x0 y0 x1 y1⟩) (code := .windowRangeError) rfl hsrc
  have hgram : NoHalfPixel s → SameGram s
      (takeAbort ⟨some .setWindow, none, none, .window x0 y0 x1 y1⟩ .windowRangeError s) :=
    fun hhalf a => (gramByte_takeAbort rfl a).trans (sameGram_closeStream hhalf a)
  rw [takeAbort_frame rfl] at hdecoder hgram ⊢
  exact ⟨rfl, rfl, hready, rfl, rfl, rfl, hgram, rfl, hdecoder, ⟨rfl, rfl, rfl, rfl, rfl, rfl, rfl⟩, rfl⟩

end Sys2Proof.Proofs
end

section
/-! PROOFS. WRITE_PIXELS at every length and with any byte failing (spec/42_driver_ops.md R145; 40_framing.md R106, R109;
41_controller_commands.md R126, R130), and the bus view of a list of events (10_state.md R40). -/

namespace Sys2Proof.Proofs

open Sys2Proof.Machine Sys2Proof.Safety

/-! ## The bus view of a part of the trace (R40) -/

/-- The bus view of events in emission order, from the command/data mode in force before them. -/
def itemsOf (c : Config) : DcMode → List Event → List BusItem
  | _, [] => []
  | _, .pinDc lvl :: es => itemsOf c (if lvl = c.dcCmd then .cmd else .data) es
  | m, .tx b ok :: es => .byte m b ok :: itemsOf c m es
  | m, .pinCs lvl :: es => if lvl = c.csActive then itemsOf c m es else .desel :: itemsOf c m es
  | m, _ :: es => itemsOf c m es

/-- Events added to a trace add their items to its bus view. -/
theorem busViewRev_append (c : Config) (es : List Event) (tr : List Event) :
    (busViewRev c (es.reverse ++ tr)).reverse = (busViewRev c tr).reverse ++ itemsOf c (modeAfter c tr) es := by
  induction es generalizing tr with
  | nil => simp [itemsOf]
  | cons e es ih =>
    rw [List.reverse_cons, List.append_assoc, List.singleton_append, ih]
    cases e with
    | tx b ok => simp [busViewRev, modeAfter, itemsOf]
    | pinCs lvl =>
      simp only [busViewRev, modeAfter, itemsOf]
      split <;> simp
    | _ => simp [busViewRev, modeAfter, itemsOf]

theorem busView_of_events {s t : State} {es : List Event} (h : t.events = s.events ++ es) (hc : t.cfg = s.cfg) :
    t.busView = s.busView ++ itemsOf s.cfg (modeAfter s.cfg s.trace) es := by
  have htrace : t.trace = es.reverse ++ s.trace := by
    rw [← List.reverse_reverse t.trace, show t.trace.reverse = s.trace.reverse ++ es from h, List.reverse_append,
      List.reverse_reverse]
  rw [State.busView, htrace, hc, busViewRev_append, State.busView]

section items
variable (c : Config) (m : DcMode) (es : List Event)

theorem itemsOf_sentEvents (bs : List Byte) :
    itemsOf c m (sentEvents bs ++ es) = bs.map (fun b => .byte m b true) ++ itemsOf c m es := by
  induction bs with
  | nil => rfl
  | cons b bs ih => exact congrArg _ ih

/-- A stream of bytes that are all answered ok, and nothing after it. -/
theorem itemsOf_sentEvents_all (bs : List Byte) : itemsOf c .data (sentEvents bs) = bs.map itemD := by
  rw [← List.append_nil (sentEvents bs), itemsOf_sentEvents, itemsOf, List.append_nil]
  rfl

theorem itemsOf_release : itemsOf c m (.pinCs c.csActive.opposite :: es) = .desel :: itemsOf c m es :=
  if_neg (level_opposite_ne _)

theorem itemsOf_select : itemsOf c m (.pinCs c.csActive :: es) = itemsOf c m es := if_pos rfl

theorem itemsOf_driveCmd : itemsOf c m (.pinDc c.dcCmd :: es) = itemsOf c .cmd es := by simp [itemsOf]

theorem itemsOf_driveData : itemsOf c m (.pinDc c.dcCmd.opposite :: es) = itemsOf c .data es := by
  simp [itemsOf, level_opposite_ne]

theorem itemsOf_cmdEvents (b : Byte) :
    itemsOf c m (cmdEvents c b ++ es) = itemC b :: .desel :: itemsOf c .cmd es := by
  show itemsOf c m (.pinDc c.dcCmd :: .pinCs c.csActive :: .tx b true :: .pinCs c.csActive.opposite :: es) = _
  rw [itemsOf_driveCmd, itemsOf_select, itemsOf, itemsOf_release, itemC]

theorem itemsOf_dataEvents (bs : List Byte) :
    itemsOf c m (dataEvents c bs ++ es) = bs.map itemD ++ .desel :: itemsOf c .data es := by
  have hevents : dataEvents c bs ++ es =
      .pinDc c.dcCmd.opposite :: .pinCs c.csActive :: (sentEvents bs ++ .pinCs c.csActive.opposite :: es) := by
    simp [dataEvents]
  rw [hevents, itemsOf_driveData, itemsOf_select, itemsOf_sentEvents, itemsOf_release]
  rfl

end items

/-! ## A byte that fails (R109, R130) -/

/-- The state where `Tx(b)` has been answered fail, before the byte is delivered, if it is. -/
def attempted (b : Byte) (rest : List TxAns) (s : State) : State := record (.tx b false) { s with txIn := rest }

/-- What a failed `Tx(b)` leaves: the byte was lost, or it was delivered all the same (R130). -/
def FailedTx (b : Byte) (rest : List TxAns) (s t : State) : Prop :=
  t = attempted b rest s ∨ deliver b (attempted b rest s) = .ok t

theorem tx_failed {b : Byte} {s : State} {a : TxAns} {rest : List TxAns} (h : s.txIn = a :: rest) (ha : a ≠ .ok)
    (hd : ∃ t, deliver b (attempted b rest s) = .ok t) : ∃ t, tx b s = .ok false t ∧ FailedTx b rest s t := by
  cases a with
  | ok => exact absurd rfl ha
  | failDelivered =>
    obtain ⟨t, ht⟩ := hd
    refine ⟨t, (tx_failDelivered h).trans ?_, .inr ht⟩
    unfold attempted at ht
    rw [ht]
  | failLost => exact ⟨_, tx_failLost h, .inl rfl⟩

/-- The stop that a failed transfer raises (R102, R103, R106). -/
def transferStop (info : TransferInfo) : Stop := .raise .transferError (some .transfer) (.transfer info)

/-- The bytes of a frame or stream up to one that fails (R103, R106, R109): what was sent is closed, and the failing
byte's index is reported. -/
theorem sendBytes_failed {frame : FrameKind} {close : State → State} {b : Byte} {xs ys : List Byte} {i : Nat}
    {s u t : State} (h : Sends xs s u) (hb : tx b u = .ok false t) :
    sendBytes frame close i (xs ++ b :: ys) s =
      .error (transferStop ⟨frame, none, i + xs.length⟩) (close t) := by
  induction h generalizing i with
  | nil => simp [sendBytes, hb, raiseTransfer, transferStop]
  | @cons x xs s v u hx _ ih =>
    have hrest := ih (i := i + 1) hb
    rw [List.length_cons, show i + (xs.length + 1) = i + 1 + xs.length by omega, ← hrest]
    simp [sendBytes, hx]

/-- `s` with other answers waiting and another trace, which the controller does not look at (R37). -/
def withPorts (ti : List TxAns) (tr : List Event) (s : State) : State := { s with txIn := ti, trace := tr }

/-- A data byte that the controller takes is delivered, whatever the trace and the waiting answers are. -/
theorem deliver_withPorts {b : Byte} {s t : State} (hd : s.dc = .data) (h : ctlData b s = .ok t) (ti : List TxAns)
    (tr : List Event) : deliver b (withPorts ti tr s) = .ok (withPorts ti tr t) :=
  (deliver_data (s := withPorts ti tr s) hd).trans (ctlData_io b s s.txIn s.trace ti tr h)

theorem ctlDatas_append {xs ys : List Byte} {s t : State} (h : ctlDatas xs s = .ok t) :
    ctlDatas (xs ++ ys) s = ctlDatas ys t := by
  induction xs generalizing s with
  | nil => rw [List.nil_append, Except.ok.inj h]
  | cons x xs ih =>
    rw [List.cons_append, ctlDatas]
    rw [ctlDatas] at h
    split at h
    · next u hu => exact ih h
    · cases h

/-- The bytes of a data frame or stream where transfer `j` fails: those before it are sent, and the controller has taken
`n` bytes, the failing one among them or not. -/
theorem tx_failed_after {bs : List Byte} {j : Nat} {a : TxAns} {rest : List TxAns} {s : State} (hd : s.dc = .data)
    (hj : j < bs.length) (htx : TransferFails s j a rest) (hok : ∀ n, ∃ v, ctlDatas (bs.take n) s = .ok v) :
    ∃ u n v, Sends (bs.take j) s u ∧ (n = j ∨ n = j + 1) ∧ ctlDatas (bs.take n) s = .ok v ∧
      tx bs[j] u = .ok false (withPorts rest (.tx bs[j] false :: ((sentEvents (bs.take j)).reverse ++ s.trace)) v) := by
  obtain ⟨htx, ha⟩ := htx
  obtain ⟨v, hv⟩ := hok j
  obtain ⟨v', hv'⟩ := hok (j + 1)
  have hlen : (bs.take j).length = j := by rw [List.length_take]; omega
  have hsends := sends_of_ctlDatas (rest := a :: rest) hd (by rw [TransfersOk, hlen, htx]) hv
  have hlast : ctlData bs[j] v = .ok v' := by
    rw [List.take_succ_eq_append_getElem hj, ctlDatas_append hv] at hv'
    cases hb : ctlData bs[j] v <;> rw [ctlDatas, hb] at hv' <;> exact hv'
  have hdeliver := deliver_withPorts ((onlyController_dc (ctlDatas_only hv)).trans hd) hlast rest
    (.tx bs[j] false :: ((sentEvents (bs.take j)).reverse ++ s.trace))
  obtain ⟨w, hw, rfl | hdelivered⟩ := tx_failed (b := bs[j]) (rest := rest)
    (s := withPorts (a :: rest) ((sentEvents (bs.take j)).reverse ++ s.trace) v) rfl ha ⟨_, hdeliver⟩
  · exact ⟨_, j, v, hsends, .inl rfl, hv, hw⟩
  · exact ⟨_, j + 1, v', hsends, .inr rfl, hv', Except.ok.inj (hdeliver.symm.trans hdelivered) ▸ hw⟩

/-! ## WRITE_PIXELS (R145) -/

theorem windowFormed_of_windowInPanel {s : State} (h : windowInPanel s) : windowFormed s.ctl = true := by
  obtain ⟨hx, -, hy, -⟩ := h
  exact decide_eq_true ⟨hx, hy⟩

/-- Settles O36: the bytes are sent one after another, and the controller takes each as a byte of its stream. -/
theorem writePixelsCompletes : Obligations.WritePixelsCompletes := by
  intro bytes s rest hs hw htx
  obtain ⟨t, ht, honly, hctl, houtside⟩ := ctlDatas_streamed bytes hw hs.context (.inl hs.window)
  obtain ⟨hexec, -⟩ := exec_writePixels_ok_iff.2 ⟨hs.ready, hs.isOpen, _, sends_of_ctlDatas hs.dataMode htx ht, rfl⟩
  have hcfg := onlyController_cfg honly
  have hevents : (returnOk none (withPorts rest ((sentEvents bytes).reverse ++ s.trace) t)).events =
      s.events ++ sentEvents bytes := by
    show ((sentEvents bytes).reverse ++ s.trace).reverse = _
    rw [List.reverse_append, List.reverse_reverse, State.events]
  have hview := busView_of_events hevents hcfg
  rw [hs.lineAgrees, itemsOf_sentEvents_all] at hview
  refine ⟨_, hexec, ⟨rfl, rfl, rfl, rfl⟩, hevents, hview, ?_, hctl, houtside (windowFormed_of_windowInPanel hs.window),
    hcfg, ?_, ?_, rfl⟩
  all_goals rw [honly]
  · exact ⟨rfl, rfl, rfl, rfl, rfl⟩
  · exact sameDecoder_refl s
  · exact ⟨rfl, rfl, rfl, rfl, rfl, rfl, rfl⟩

/-- The end of a stream changes no cell outside its window (R126, 93 I1, I2). -/
theorem ctlHalfPixel_outside {s : State} (h : windowFormed s.ctl = true) : SameOutsideWindow s (ctlHalfPixel s) := by
  intro a ha
  by_cases hd : streamDefined s = true
  · by_cases hk : s.ctl.wp < windowCount s.ctl
    · exact gramByte_ctlHalfPixel_other hd hk (ha _ hk)
    · unfold ctlHalfPixel
      rw [if_pos hd, if_neg hk]
      split
      · exact freeWindow_outside s a ha
      · rfl
  · unfold ctlHalfPixel
    rw [if_neg hd, freeStreamEffect, if_pos h]
    split
    · exact freeWindow_outside s a ha
    · rfl

theorem closeStream_outside {s : State} (h : windowFormed s.ctl = true) : SameOutsideWindow s (closeStream s) :=
  fun a ha => gramByte_closeStream (ctlHalfPixel_outside (s := releaseBus s) h a ha)

/-- A stream and its end change no cell outside the window. -/
theorem Streamed.closed {s t : State} (h : Streamed s t) (hformed : windowFormed s.ctl = true) (ti : List TxAns)
    (tr : List Event) : SameOutsideWindow s (closeStream (withPorts ti tr t)) := by
  intro a ha
  have ht : gramByte t a = gramByte s a := h.outside hformed a ha
  refine (closeStream_outside ?_ a ?_).trans ht
  · show windowFormed t.ctl = true
    rw [h.ctl]
    exact hformed
  · show ∀ k, k < windowCount t.ctl → ¬ isPixelByte t.ctl k a
    rw [h.ctl]
    exact ha

/-- A body that raises a failed transfer ends in the abort sequence (R13, R216). -/
theorem runOperation_transferStop {op : OpName} {src : Option Byte} {body : Op (Option Half)} {info : TransferInfo}
    {s t : State} (h : body s = .error (transferStop info) t) :
    runOperation op src body s =
      .next (takeAbort ⟨some op, src, some .transfer, .transfer info⟩ .transferError t) := runOperation_raise h

/-- Settles O38: the bytes before the failing one are sent, and the stream is closed on what the controller has taken;
the abort sequence finds it closed. -/
theorem writePixelsTransferFailure : Obligations.WritePixelsTransferFailure := by
  intro bytes s j hj a rest hs hw htx
  have hruns := fun n => ctlDatas_streamed (bytes.take n) hw hs.context (.inl hs.window)
  obtain ⟨u, n, v, hsends, -, hv, hfail⟩ := tx_failed_after hs.dataMode hj htx fun n => (hruns n).imp fun _ h => h.1
  have hstreamed : Streamed s v := by
    obtain ⟨v', hv', h⟩ := hruns n
    exact Except.ok.inj (hv'.symm.trans hv) ▸ h
  generalize hwdef : withPorts rest (.tx bytes[j] false :: ((sentEvents (bytes.take j)).reverse ++ s.trace)) v = w
    at hfail
  have hframe : w = { s with
      ctl := w.ctl, gram := w.gram, gramEpoch := w.gramEpoch, freeCtr := w.freeCtr, txIn := rest
      trace := .tx bytes[j] false :: ((sentEvents (bytes.take j)).reverse ++ s.trace) } := by
    rw [← hwdef, withPorts, hstreamed.only]
  have hbody : writePixelsBody bytes s = .error (transferStop ⟨.stream, none, j⟩) (closeStream w) := by
    have hready : requireReady s = .ok () s := if_pos (decide_eq_true hs.ready)
    have hopen : requireStream s = .ok () s := if_pos hs.isOpen
    have hsend := sendBytes_failed (frame := .stream) (close := closeStream) (ys := bytes.drop (j + 1)) (i := 0) hsends
      hfail
    rw [List.getElem_cons_drop, List.take_append_drop, List.length_take, Nat.min_eq_left hj.le, Nat.zero_add] at hsend
    simp only [writePixelsBody, op_bind, hready, hopen, append_open hs.isOpen, hsend]
  have hopen : w.streamOpen = true := by rw [hframe]; exact hs.isOpen
  have hsrc : sourceCloseEvents (closeStream w) = sourceCloseEvents s := by
    rw [sourceCloseEvents, sameDecoder_decSrcOpen (closeStream_sameDecoder w), hframe, sourceCloseEvents]
  have hclosed := closeStream_streamOpen w
  refine ⟨_, runOperation_transferStop (op := .writePixels) (src := none) hbody, takeAbort_endedWith rfl, ?_, ?_,
    takeAbort_busReleased rfl fun _ => ?_, ?_, fun a ha => ?_, ?_⟩
  · rw [takeAbort_events rfl, closeStream_events, hsrc, releaseEvents, releaseEvents, hopen, hclosed, hframe]
    simp [State.events, sentEvents, sourceCloseEvents]
  · rw [takeAbort_drvState, closeStream_drvState, hframe]
    exact hs.ready
  · rw [closeStream_frame, hopen]
    rfl
  · rw [takeAbort_frame rfl]
    exact (closeStream_dc w).trans (by rw [hframe]; exact hs.dataMode)
  · rw [gramByte_takeAbort rfl, closeStream_closed _ hclosed, ← hwdef]
    exact hstreamed.closed (windowFormed_of_windowInPanel hs.window) _ _ a ha
  · rw [takeAbort_frame rfl]
    exact (closeStream_txIn w).trans (by rw [hframe])

end Sys2Proof.Proofs
end

section
/-! PROOFS. SET_WINDOW with every transfer ok (spec/42_driver_ops.md R143; 40_framing.md R105, R111). -/

namespace Sys2Proof.Proofs

open Sys2Proof.Machine Sys2Proof.Safety

/-- The items of the release of a stream left open (R151). -/
theorem itemsOf_releaseEvents (s : State) (m : DcMode) (es : List Event) :
    itemsOf s.cfg m (releaseEvents s ++ es) = releaseItems s ++ itemsOf s.cfg m es := by
  unfold releaseEvents releaseItems
  split
  · exact itemsOf_release _ _ _
  · rfl

/-- The items of SET_WINDOW's frames do not depend on the mode before them, as each frame drives the line (R102, R103). -/
theorem itemsOf_windowEvents (c : Config) (m : DcMode) (x0 y0 x1 y1 : Half) (es : List Event) :
    itemsOf c m (windowEvents c x0 y0 x1 y1 ++ es) = windowItems c x0 y0 x1 y1 ++ itemsOf c .data es := by
  have hopen : itemsOf c .data
      (.pinDc c.dcCmd :: .pinCs c.csActive :: .tx c.cmdRamwr true :: .pinDc c.dcCmd.opposite :: es) =
      itemC c.cmdRamwr :: itemsOf c .data es := by
    rw [itemsOf_driveCmd, itemsOf_select, itemsOf, itemsOf_driveData, itemC]
  simp only [windowEvents, List.append_assoc, itemsOf_cmdEvents, itemsOf_dataEvents, List.cons_append, List.nil_append,
    hopen, windowItems]

/-- `t` is `s` once the body of SET_WINDOW has opened the stream of its window (R143). -/
structure WindowOpened (x0 y0 x1 y1 : Half) (rest : List TxAns) (s t : State) : Prop where
  delivered : Delivered (windowEvents s.cfg x0 y0 x1 y1) rest (closeStream s) t
  busSel : t.busSel = true
  isOpen : t.streamOpen = true
  dataMode : t.dc = .data
  ctl : t.ctl = windowCtl s.cfg x0 y0 x1 y1 s.ctl

/-- The body of SET_WINDOW with every transfer ok (R143, R148, R181). -/
theorem windowBody_ok {x0 y0 x1 y1 : Half} {s : State} {rest : List TxAns} (hw : s.cfg.wf = true)
    (hb : s.busSel = s.streamOpen) (htx : TransfersOk s 11 rest) :
    ∃ t, windowBody x0 y0 x1 y1 s = .ok () t ∧ WindowOpened x0 y0 x1 y1 rest s t := by
  have hidle := closeStream_busSel s hb
  have hcfg := closeStream_cfg s
  have hw' : (closeStream s).cfg.wf = true := hcfg.symm ▸ hw
  obtain ⟨⟨⟩, t, hframes, ⟨⟨ht, hwp, hhi⟩, hports, hcmd, hwindow⟩, hargs, hargi⟩ :=
    ((returns_windowFrames (x0 := x0) (y0 := y0) (x1 := x1) (y1 := y1) (rest := rest) hw' hidle
      (closeStream_txIn s ▸ htx)).and_ends (ends_windowFrames hw' hidle)).and_ends (ends_windowFrames_args hw' hidle)
  refine ⟨t, by rw [windowBody, hframes], hcfg ▸ ht, hports.busSel, hports.streamOpen, hports.dc, ?_⟩
  rw [← closeStream_ctl s, ← hcfg]
  exact eq_windowCtl hcmd hargi hargs hwindow ht.display hwp hhi

section opened
variable {x0 y0 x1 y1 : Half} {rest : List TxAns} {s t : State} (h : WindowOpened x0 y0 x1 y1 rest s t)
include h

/-- Everything but GRAM's half pixel, the lines, the controller and the trace is as before. -/
theorem WindowOpened.frame : t = { s with
    busSel := true, streamOpen := true, dc := .data, txIn := rest
    trace := (releaseEvents s ++ windowEvents s.cfg x0 y0 x1 y1).reverse ++ s.trace
    ctl := windowCtl s.cfg x0 y0 x1 y1 s.ctl
    gram := (closeStream s).gram, gramEpoch := (closeStream s).gramEpoch, freeCtr := t.freeCtr } := by
  rw [h.delivered.frame, h.busSel, h.isOpen, h.dataMode, h.ctl, closeStream_frame]
  simp

theorem WindowOpened.events : t.events = s.events ++ releaseEvents s ++ windowEvents s.cfg x0 y0 x1 y1 := by
  rw [h.frame]
  simp [State.events]

theorem WindowOpened.sameGram (hhalf : NoHalfPixel s) : SameGram s t := sameGram_setWindow hhalf h.delivered

end opened

/-- SET_WINDOW in range runs its body, and returns or raises as the body does (R143). -/
theorem setWindowBody_eq {x0 y0 x1 y1 : Half} {s : State} (hready : s.drvState = .ready)
    (hr : windowInRange s.cfg x0 y0 x1 y1 = true) :
    setWindowBody x0 y0 x1 y1 s = (windowBody x0 y0 x1 y1 >>= fun _ => pure none) s := by
  have hlegal : requireReady s = .ok () s := if_pos (decide_eq_true hready)
  have hrange : requireWindow x0 y0 x1 y1 s = .ok () s := if_pos hr
  simp only [setWindowBody, op_bind, op_pure, hlegal, hrange]

/-- Settles O32: the body opens the stream of the window, and the operation returns. -/
theorem setWindowCompletes : Obligations.SetWindowCompletes := by
  intro x0 y0 x1 y1 s rest hready hw hr hb htx
  obtain ⟨t, hbody, ht⟩ := windowBody_ok (x0 := x0) (y0 := y0) (x1 := x1) (y1 := y1) hw hb htx
  have hexec : exec (.setWindow x0 y0 x1 y1) s = .next (returnOk none t) := by
    show runOperation .setWindow none (setWindowBody x0 y0 x1 y1) s = _
    rw [runOperation, setWindowBody_eq hready hr, op_bind, hbody]
    rfl
  have hevents : (returnOk none t).events = s.events ++ (releaseEvents s ++ windowEvents s.cfg x0 y0 x1 y1) :=
    ht.events.trans (List.append_assoc _ _ _)
  have hcfg : t.cfg = s.cfg := by rw [ht.frame]
  have hview := busView_of_events hevents hcfg
  rw [← List.append_nil (windowEvents s.cfg x0 y0 x1 y1), itemsOf_releaseEvents, itemsOf_windowEvents, itemsOf,
    List.append_nil, ← List.append_assoc] at hview
  have hgram : NoHalfPixel s → SameGram s (returnOk none t) := ht.sameGram
  refine ⟨_, hexec, ⟨rfl, rfl, rfl, rfl⟩, ht.events, hview, ?_⟩
  rw [ht.frame] at hgram ⊢
  exact ⟨hready, rfl, rfl, rfl, rfl, ⟨rfl, rfl, rfl, rfl⟩, rfl, rfl, rfl, rfl, ⟨rfl, rfl, rfl, rfl⟩,
    ⟨rfl, rfl, rfl, rfl, rfl⟩, hgram, rfl, sameDecoder_refl s, ⟨rfl, rfl, rfl, rfl, rfl, rfl, rfl⟩, rfl⟩

end Sys2Proof.Proofs
end

section
/-! PROOFS. Frames where one transfer fails (spec/40_framing.md R102-R105, R109): which stop it is, and what the frames up
to it leave; and SET_WINDOW with any one of its transfers failing (42_driver_ops.md R143, R144).

The frames of an operation make a list of transfers, each with the stop it raises. A part `x` with the stops `stops` is
proved to fail at each index of the list (`FailsAt`); two parts in turn append their lists (`FailsAt.bind`). What the
frames keep of the controller differs between SET_WINDOW and INIT: it is a relation `K` that the lemmas leave open. -/

namespace Sys2Proof.Proofs

open Sys2Proof.Machine Sys2Proof.Safety

/-! ## Whole frames (R101) -/

/-- `t` is `s` after whole frames with the events `es`, the answers `rest` still to come: the bus is free, and of TFTCORE
only the driver state, the command/data line and the sequencer may have changed. -/
def Framed (es : List Event) (rest : List TxAns) (s t : State) : Prop :=
  t = { s with
    drvState := t.drvState, dc := t.dc, busSel := false, seq := t.seq, trace := es.reverse ++ s.trace, txIn := rest
    ctl := t.ctl, gram := t.gram, gramEpoch := t.gramEpoch, freeCtr := t.freeCtr }

section framed
variable {es es' : List Event} {rest rest' : List TxAns} {s t u : State}

theorem Framed.trans (h : Framed es rest s t) (k : Framed es' rest' t u) : Framed (es ++ es') rest' s u := by
  unfold Framed at *
  rw [List.reverse_append, List.append_assoc, k, h]

section fields
variable (h : Framed es rest s t)
include h

theorem Framed.cfg : t.cfg = s.cfg := by rw [h]
theorem Framed.busSel : t.busSel = false := by rw [h]
theorem Framed.streamOpen : t.streamOpen = s.streamOpen := by rw [h]
theorem Framed.txIn : t.txIn = rest := by rw [h]
theorem Framed.events : t.events = s.events ++ es := by
  rw [h]
  simp [State.events]

end fields

/-- A frame's end: what its transfers did to the controller, between the lines' drive and the release. -/
theorem framed_release {es : List Event} {v : State} (ho : OnlyController v t)
    (hv : v = { s with dc := v.dc, busSel := v.busSel, trace := es.reverse ++ s.trace, txIn := rest }) :
    Framed (es ++ [.pinCs s.cfg.csActive.opposite]) rest s (releaseBus t) := by
  unfold Framed OnlyController at *
  rw [List.reverse_append, ho, hv]
  rfl

end framed

theorem txEvents_append (es fs : List Event) : txEvents (es ++ fs) = txEvents es ++ txEvents fs := List.filter_append ..

theorem length_txEvents_sentEvents (bs : List Byte) : (txEvents (sentEvents bs)).length = bs.length := by
  have hall : txEvents (sentEvents bs) = sentEvents bs := by
    refine List.filter_eq_self.2 fun e he => ?_
    obtain ⟨b, -, rfl⟩ := List.mem_map.1 he
    rfl
  rw [hall, sentEvents, List.length_map]

theorem length_txEvents_dataEvents (c : Config) (bs : List Byte) :
    (txEvents (dataEvents c bs)).length = bs.length := by
  rw [dataEvents, txEvents_append, txEvents_append, List.length_append, List.length_append, length_txEvents_sentEvents]
  exact Nat.zero_add _

/-! ## Transfers up to one that fails -/

/-- The controller and GRAM are the same. -/
def SameController (s t : State) : Prop :=
  t.cfg = s.cfg ∧ t.ctl = s.ctl ∧ t.gram = s.gram ∧ t.gramEpoch = s.gramEpoch

/-- A relation that speaks of the controller and GRAM alone, and that steps can be chained by. -/
structure Keeping (K : State → State → Prop) : Prop where
  same : ∀ {s t : State}, SameController s t → K s t
  trans : ∀ {s t u : State}, K s t → K t u → K s u

/-- `t` is `s` after frames with `n` transfers, the last of them answered in any way; `K` is kept. -/
structure Reached (K : State → State → Prop) (n : Nat) (rest : List TxAns) (s t : State) : Prop where
  events : ∃ es, Framed es rest s t ∧ (txEvents es).length = n
  kept : K s t

/-- `x`, run at `s` with its transfer number `j` failing, raises stop number `j` right after it. -/
def FailsAt {α : Type} (K : State → State → Prop) (x : Op α) (stops : List Stop) (s : State) : Prop :=
  ∀ (j : Nat) (hj : j < stops.length) (a : TxAns) (rest : List TxAns), TransferFails s j a rest →
    ∃ t, x s = .error stops[j] t ∧ Reached K (j + 1) rest s t

section rules
variable {α β : Type} {K : State → State → Prop} {n m : Nat} {rest rest' : List TxAns} {s t u : State}

theorem Reached.trans (hK : Keeping K) (h : Reached K n rest s t) (k : Reached K m rest' t u) :
    Reached K (n + m) rest' s u := by
  obtain ⟨⟨es, hes, hn⟩, hst⟩ := h
  obtain ⟨⟨fs, hfs, hm⟩, htu⟩ := k
  exact ⟨⟨es ++ fs, hes.trans hfs, by rw [txEvents_append, List.length_append, hn, hm]⟩, hK.trans hst htu⟩

theorem failsAt_nil (x : Op α) : FailsAt K x [] s := fun _ hj => nomatch hj

/-- Two parts in turn: a transfer of the second fails where those of the first were all answered ok. -/
theorem FailsAt.bind {x : Op β} {f : β → Op α} {stops stops' : List Stop} (hK : Keeping K) (hx : FailsAt K x stops s)
    (hf : ∀ rest, TransfersOk s stops.length rest →
      Returns x (fun b t => Reached K stops.length rest s t ∧ FailsAt K (f b) stops' t) s) :
    FailsAt K (x >>= f) (stops ++ stops') s := by
  intro j hj a rest ⟨htx, ha⟩
  by_cases hlt : j < stops.length
  · obtain ⟨t, ht, hreached⟩ := hx j hlt a rest ⟨htx, ha⟩
    exact ⟨t, by rw [op_bind, ht, List.getElem_append_left hlt], hreached⟩
  · have hle : stops.length ≤ j := Nat.le_of_not_lt hlt
    rw [List.length_append] at hj
    have hsplit : TransfersOk s stops.length (List.replicate (j - stops.length) .ok ++ a :: rest) := by
      rw [TransfersOk, ← List.append_assoc, List.replicate_append_replicate, Nat.add_sub_cancel' hle, htx]
    obtain ⟨b, t, ht, hfirst, hsecond⟩ := hf _ hsplit
    obtain ⟨es, hes, -⟩ := hfirst.events
    obtain ⟨u, hu, hreached⟩ := hsecond (j - stops.length) (by omega) a rest ⟨hes.txIn, ha⟩
    refine ⟨u, by rw [op_bind, ht, List.getElem_append_right hle]; exact hu, ?_⟩
    have hall := hfirst.trans hK hreached
    rwa [← Nat.add_assoc, Nat.add_sub_cancel' hle] at hall

end rules

/-! ## One command with its payload (R102-R104) -/

/-- A predicate that speaks of the controller and GRAM alone. -/
def ControllerOnly (P : State → Prop) : Prop := ∀ u v, SameController u v → P u → P v

/-- The events of a payload (R104): an empty one has no data frame. -/
def payloadEvents (c : Config) (bs : List Byte) : List Event := if bs.isEmpty then [] else dataEvents c bs

theorem length_txEvents_payloadEvents (c : Config) (bs : List Byte) :
    (txEvents (payloadEvents c bs)).length = bs.length := by
  unfold payloadEvents
  split
  · next h => rw [List.isEmpty_iff.1 h]; rfl
  · exact length_txEvents_dataEvents c bs

section succeeding
variable {code : Byte} {bs : List Byte} {rest : List TxAns} {s : State} {P Q : State → Prop}

/-- What the bytes of a data frame did to the controller, and the release (R103). -/
theorem framed_dataFrame {es : List Event} {v : State} (honly : OnlyController (selectBus (driveData s)) v) :
    Framed ([.pinDc s.cfg.dcCmd.opposite, .pinCs s.cfg.csActive] ++ es ++ [.pinCs s.cfg.csActive.opposite]) rest s
      (releaseBus (withPorts rest (es.reverse ++ (selectBus (driveData s)).trace) v)) := by
  refine framed_release
    (v := withPorts rest (es.reverse ++ (selectBus (driveData s)).trace) (selectBus (driveData s))) ?_ ?_
  · unfold OnlyController at *
    rw [honly]
    rfl
  · rw [List.reverse_append]
    simp [withPorts, selectBus, driveData]

/-- A command byte answered ok, and the release (R102). -/
theorem returns_commandFrame (hP : ControllerOnly P) (hcode : ∀ u, SameController s u → P (ctlCommand code u))
    (hidle : s.busSel = false) (htx : s.txIn = .ok :: rest) :
    Returns (cmdFrame code) (fun _ t => Framed (cmdEvents s.cfg code) rest s t ∧ P t ∧ t.dc = .cmd) s := by
  obtain ⟨v, hv⟩ : ∃ v, v = record (.tx code true) { selectBus (driveCmd s) with txIn := rest } := ⟨_, rfl⟩
  have honly := ctlCommand_only code v
  have hframe : cmdFrame code s = .ok () (releaseBus (ctlCommand code v)) := hv ▸ cmdFrame_ok hidle htx
  have hsame : SameController s v := hv ▸ ⟨rfl, rfl, rfl, rfl⟩
  exact ⟨(), _, hframe, framed_release (es := [.pinDc _, .pinCs _, .tx code true]) honly (hv ▸ rfl),
    hP (ctlCommand code v) _ ⟨rfl, rfl, rfl, rfl⟩ (hcode v hsame), (onlyController_dc honly).trans (hv ▸ rfl)⟩

/-- A data frame whose bytes the controller takes, all answered ok (R103). -/
theorem returns_dataFrame (hQ : ControllerOnly Q) (hdata : ∃ v, ctlDatas bs (selectBus (driveData s)) = .ok v ∧ Q v)
    (hn : bs ≠ []) (hidle : s.busSel = false) (htx : TransfersOk s bs.length rest) :
    Returns (dataFrame bs) (fun _ t => Framed (dataEvents s.cfg bs) rest s t ∧ Q t) s := by
  obtain ⟨v, hv, hq⟩ := hdata
  have hsent := sendBytes_ok (frame := .data) (close := releaseBus) (i := 0) (s := selectBus (driveData s)) rfl htx
    fun ti tr => ctlDatas_io hv ti tr
  have hframe : dataFrame bs s =
      .ok () (releaseBus (withPorts rest ((sentEvents bs).reverse ++ (selectBus (driveData s)).trace) v)) := by
    rw [dataFrame_eq hidle hn, hsent]
    rfl
  exact ⟨(), _, hframe, framed_dataFrame (ctlDatas_only hv), hQ v _ ⟨rfl, rfl, rfl, rfl⟩ hq⟩

/-- A command with its payload, all answered ok (R104): `P` is what the command byte gives, `Q` what the payload makes of
it. -/
theorem returns_cmdWithPayload (hP : ControllerOnly P) (hQ : ControllerOnly Q)
    (hcode : ∀ u, SameController s u → P (ctlCommand code u))
    (hdata : ∀ u, u.cfg = s.cfg → P u → ∃ v, ctlDatas bs u = .ok v ∧ Q v) (hidle : s.busSel = false)
    (htx : TransfersOk s (1 + bs.length) rest) :
    Returns (cmdWithPayload code bs) (fun _ t =>
      Framed (cmdEvents s.cfg code ++ payloadEvents s.cfg bs) rest s t ∧ Q t ∧ (bs = [] → t.dc = .cmd)) s := by
  rw [TransfersOk, List.replicate_add, List.append_assoc] at htx
  refine .bind ((returns_commandFrame hP hcode hidle htx).mono ?_)
  rintro - t ⟨hframed, hp, hdc⟩
  have hcfg := hframed.cfg
  by_cases hn : bs = []
  · subst hn
    obtain ⟨v, hv, hq⟩ := hdata t hcfg hp
    obtain rfl := Except.ok.inj hv
    exact returns_pure ⟨by simpa [payloadEvents] using hframed, hq, fun _ => hdc⟩
  · have hempty : bs.isEmpty = false := by simpa using hn
    have hready : P (selectBus (driveData t)) := hP t _ ⟨rfl, rfl, rfl, rfl⟩ hp
    rw [if_neg (by simp [hempty]), payloadEvents, if_neg (by simp [hempty])]
    refine (returns_dataFrame hQ (hdata _ hcfg hready) hn hframed.busSel hframed.txIn).mono ?_
    rintro - u ⟨hsecond, hq⟩
    exact ⟨hframed.trans (hcfg ▸ hsecond), hq, fun h => absurd h hn⟩

end succeeding

/-- The stops of a data frame of `n` bytes (R103). -/
def dataStops (n : Nat) : List Stop := (List.range n).map fun i => transferStop ⟨.data, none, i⟩

/-- The stops of a command and a payload of `n` bytes (R102-R104). -/
def commandStops (code : Byte) (n : Nat) : List Stop := [transferStop ⟨.cmd, some code, 0⟩] ++ dataStops n

/-- `K` is kept by the command byte `code`. -/
def CommandKeeps (K : State → State → Prop) (c : Config) (code : Byte) : Prop :=
  ∀ u : State, u.cfg = c → K u (ctlCommand code u)

/-- In the context of `code`, the controller takes any data byte, stays in that context and keeps `K`. -/
def PayloadKeeps (K : State → State → Prop) (c : Config) (code : Byte) : Prop :=
  ∀ (b : Byte) (u : State), u.cfg = c → u.ctl.cmd = some code →
    ∃ v, ctlData b u = .ok v ∧ v.ctl.cmd = some code ∧ K u v

/-- A command whose payload, if it has one, the controller takes in the command's context. -/
structure CommandTaken (K : State → State → Prop) (c : Config) (code : Byte) (bs : List Byte) : Prop where
  command : CommandKeeps K c code
  payload : bs ≠ [] → code ≠ c.cmdSwreset ∧ PayloadKeeps K c code

/-- After the command byte: `K` is kept, and the context is the one of a payload to come. -/
def InContext (K : State → State → Prop) (code : Byte) (bs : List Byte) (s t : State) : Prop :=
  K s t ∧ (bs ≠ [] → t.ctl.cmd = some code)

section failing
variable {K : State → State → Prop} {code : Byte} {bs : List Byte} {a : TxAns} {rest : List TxAns} {s : State}
variable (hK : Keeping K)
include hK

theorem Keeping.controllerOnly (s : State) : ControllerOnly (K s) := fun _ _ hsame hk => hK.trans hk (hK.same hsame)

theorem controllerOnly_inContext : ControllerOnly (InContext K code bs s) := by
  rintro u v hsame ⟨hk, hcmd⟩
  obtain ⟨-, hctl, -⟩ := id hsame
  exact ⟨hK.controllerOnly s u v hsame hk, fun hn => hctl ▸ hcmd hn⟩

theorem CommandTaken.inContext (h : CommandTaken K s.cfg code bs) (u : State) (hsame : SameController s u) :
    InContext K code bs s (ctlCommand code u) := by
  obtain ⟨hcfg, -⟩ := id hsame
  refine ⟨hK.trans (hK.same hsame) (h.command u hcfg), fun hn => ctlCommand_cmd ?_⟩
  obtain ⟨hne, -⟩ := h.payload hn
  exact hcfg ▸ hne

theorem PayloadKeeps.datas {c : Config} (h : PayloadKeeps K c code) (bs : List Byte) {u : State}
    (hc : u.cfg = c) (hcmd : u.ctl.cmd = some code) :
    ∃ v, ctlDatas bs u = .ok v ∧ v.ctl.cmd = some code ∧ K u v := by
  induction bs generalizing u with
  | nil => exact ⟨u, rfl, hcmd, hK.same ⟨rfl, rfl, rfl, rfl⟩⟩
  | cons b bs ih =>
    obtain ⟨v, hv, hvcmd, hkv⟩ := h b u hc hcmd
    obtain ⟨w, hw, hwcmd, hkw⟩ := ih ((onlyController_cfg (ctlData_only hv)).trans hc) hvcmd
    exact ⟨w, by rw [ctlDatas, hv]; exact hw, hwcmd, hK.trans hkv hkw⟩

/-- A command byte that fails (R102, R105): delivered or lost, the bus is released after it. -/
theorem command_failed (hcode : CommandKeeps K s.cfg code) (htx : s.txIn = a :: rest) (ha : a ≠ .ok) :
    ∃ t, tx code (selectBus (driveCmd s)) = .ok false t ∧ Reached K 1 rest s (releaseBus t) := by
  obtain ⟨t, ht, hfailed⟩ := tx_failed (b := code) (s := selectBus (driveCmd s)) (rest := rest) htx ha
    ⟨_, deliver_cmd rfl⟩
  have hafter : OnlyController (attempted code rest (selectBus (driveCmd s))) t ∧
      K (attempted code rest (selectBus (driveCmd s))) t := by
    rcases hfailed with rfl | hdelivered
    · exact ⟨rfl, hK.same ⟨rfl, rfl, rfl, rfl⟩⟩
    · obtain rfl := Except.ok.inj hdelivered
      exact ⟨ctlCommand_only _ _, hcode _ rfl⟩
  obtain ⟨honly, hkept⟩ := hafter
  have hstart : K s (attempted code rest (selectBus (driveCmd s))) := hK.same ⟨rfl, rfl, rfl, rfl⟩
  have hend : K t (releaseBus t) := hK.same ⟨rfl, rfl, rfl, rfl⟩
  exact ⟨t, ht, ⟨_, framed_release (es := [.pinDc _, .pinCs _, .tx code false]) honly rfl, rfl⟩,
    hK.trans hstart (hK.trans hkept hend)⟩

theorem failsAt_cmdFrame (hcode : CommandKeeps K s.cfg code) (hidle : s.busSel = false) :
    FailsAt K (cmdFrame code) [transferStop ⟨.cmd, some code, 0⟩] s := by
  rintro j hj a rest ⟨htx, ha⟩
  obtain rfl : j = 0 := Nat.lt_one_iff.1 hj
  obtain ⟨t, ht, hreached⟩ := command_failed hK hcode htx ha
  refine ⟨_, ?_, hreached⟩
  simp [cmdFrame, requireIdleBus, hidle, ht, raiseTransfer, transferStop]

theorem failsAt_openStream (hcode : CommandKeeps K s.cfg s.cfg.cmdRamwr) (hidle : s.busSel = false) :
    FailsAt K openStream [transferStop ⟨.cmd, some s.cfg.cmdRamwr, 0⟩] s := by
  rintro j hj a rest ⟨htx, ha⟩
  obtain rfl : j = 0 := Nat.lt_one_iff.1 hj
  obtain ⟨t, ht, hreached⟩ := command_failed hK hcode htx ha
  refine ⟨_, ?_, hreached⟩
  simp [openStream, requireIdleBus, hidle, ht, raiseTransfer, transferStop]

theorem failsAt_dataFrame (hdata : PayloadKeeps K s.cfg code) (hn : bs ≠ []) (hidle : s.busSel = false)
    (hcmd : s.ctl.cmd = some code) : FailsAt K (dataFrame bs) (dataStops bs.length) s := by
  intro j hj a rest htx
  have hj' : j < bs.length := by simpa [dataStops] using hj
  have hruns := fun n => hdata.datas hK (bs.take n) (u := selectBus (driveData s)) rfl hcmd
  obtain ⟨u, n, v, hsends, -, hv, hfail⟩ := tx_failed_after (s := selectBus (driveData s)) (rest := rest) rfl hj' htx
    fun n => (hruns n).imp fun _ h => h.1
  have hkept : K (selectBus (driveData s)) v := by
    obtain ⟨v', hv', -, h⟩ := hruns n
    exact Except.ok.inj (hv'.symm.trans hv) ▸ h
  have hsend := sendBytes_failed (frame := .data) (close := releaseBus) (ys := bs.drop (j + 1)) (i := 0) hsends hfail
  rw [List.getElem_cons_drop, List.take_append_drop, List.length_take, Nat.min_eq_left hj'.le, Nat.zero_add] at hsend
  have hframed := framed_dataFrame (rest := rest) (es := sentEvents (bs.take j) ++ [.tx bs[j] false]) (ctlDatas_only hv)
  rw [List.reverse_append, List.append_assoc (List.reverse _)] at hframed
  refine ⟨_, ?_, ⟨_, hframed, ?_⟩, ?_⟩
  · rw [dataFrame_eq hidle hn, hsend]
    simp [dataStops]
  · simp only [txEvents_append, List.length_append, length_txEvents_sentEvents, List.length_take, Nat.min_eq_left hj'.le]
    show 0 + (j + 1) + 0 = j + 1
    omega
  · have hstart : K s (selectBus (driveData s)) := hK.same ⟨rfl, rfl, rfl, rfl⟩
    exact hK.trans hstart (hK.trans hkept (hK.same ⟨rfl, rfl, rfl, rfl⟩))

/-- A command with its payload, all answered ok: it keeps `K`. -/
theorem reached_cmdWithPayload (htaken : CommandTaken K s.cfg code bs) (hidle : s.busSel = false)
    (htx : TransfersOk s (1 + bs.length) rest) :
    Returns (cmdWithPayload code bs) (fun _ t => Reached K (1 + bs.length) rest s t) s := by
  refine (returns_cmdWithPayload (controllerOnly_inContext hK) (hK.controllerOnly s) (htaken.inContext hK) ?_ hidle
    htx).mono ?_
  · rintro u hc ⟨hk, hcmd⟩
    by_cases hn : bs = []
    · exact ⟨u, by rw [hn, ctlDatas], hk⟩
    · obtain ⟨-, hkeeps⟩ := htaken.payload hn
      obtain ⟨v, hv, -, hkv⟩ := hkeeps.datas hK bs hc (hcmd hn)
      exact ⟨v, hv, hK.trans hk hkv⟩
  · rintro - t ⟨hframed, hk, -⟩
    refine ⟨⟨_, hframed, ?_⟩, hk⟩
    rw [txEvents_append, List.length_append, length_txEvents_payloadEvents]
    rfl

/-- A command with its payload, where one of its transfers fails. -/
theorem failsAt_cmdWithPayload (htaken : CommandTaken K s.cfg code bs) (hidle : s.busSel = false) :
    FailsAt K (cmdWithPayload code bs) (commandStops code bs.length) s := by
  refine (failsAt_cmdFrame hK htaken.command hidle).bind hK fun rest htx => ?_
  refine (returns_commandFrame (controllerOnly_inContext hK) (htaken.inContext hK) hidle htx).mono ?_
  rintro - t ⟨hframed, ⟨hk, hcmd⟩, -⟩
  refine ⟨⟨⟨_, hframed, rfl⟩, hk⟩, ?_⟩
  by_cases hn : bs = []
  · subst hn
    exact failsAt_nil _
  · obtain ⟨-, hkeeps⟩ := htaken.payload hn
    rw [if_neg (by simpa using hn)]
    exact failsAt_dataFrame hK (hframed.cfg.symm ▸ hkeeps) hn hframed.busSel (hcmd hn)

end failing

/-! ## SET_WINDOW (R143, R144) -/

/-- The frames of SET_WINDOW keep the display's registers and GRAM. -/
def KeepsDisplay (s t : State) : Prop := SameDisplayRegs s t ∧ t.gram = s.gram ∧ t.gramEpoch = s.gramEpoch

theorem keeping_keepsDisplay : Keeping KeepsDisplay where
  same := by
    rintro s t ⟨-, hctl, hgram⟩
    rw [KeepsDisplay, SameDisplayRegs, hctl]
    exact ⟨⟨rfl, rfl, rfl, rfl, rfl⟩, hgram⟩
  trans := by
    rintro s t u ⟨⟨hmadctl, hcolmod, hrecv, hsleep, hdisp⟩, hgram, hepoch⟩
      ⟨⟨kmadctl, kcolmod, krecv, ksleep, kdisp⟩, kgram, kepoch⟩
    exact ⟨⟨kmadctl.trans hmadctl, kcolmod.trans hcolmod, krecv.trans hrecv, ksleep.trans hsleep, kdisp.trans hdisp⟩,
      kgram.trans hgram, kepoch.trans hepoch⟩

theorem commandKeeps_window {c : Config} {code : Byte} (hw : c.wf = true) (hcode : IsWindowCommand c code) :
    CommandKeeps KeepsDisplay c code := by
  rintro u rfl
  obtain ⟨hframe, hdisplay⟩ := ctlCommand_keeps hw hcode
  exact ⟨hdisplay, by rw [hframe], by rw [hframe]⟩

theorem keepsDisplay_ctlWindowByte {done : Ctl → Ctl} (hdone : done = setColumns ∨ done = setRows) (b : Byte) (s : State) :
    KeepsDisplay s (ctlWindowByte b done s) := by
  have hput : ∀ i, SameDisplayRegs s { s with ctl := putArg i b s.ctl } := by
    intro i
    unfold putArg
    split <;> exact ⟨rfl, rfl, rfl, rfl, rfl⟩
  unfold ctlWindowByte
  split
  · refine ⟨?_, rfl, rfl⟩
    rcases hdone with rfl | rfl
    all_goals
      dsimp only
      split <;> exact hput _
  · exact keeping_keepsDisplay.same ⟨rfl, rfl, rfl, rfl⟩

/-- CASET and RASET take their payload bytes into `ctl_args` and the window registers (R124, R125). -/
theorem commandTaken_window {done : Ctl → Ctl} (hdone : done = setColumns ∨ done = setRows) {c : Config} {code : Byte}
    (hw : c.wf = true) (hcode : IsWindowCommand c code) (hdata : TakesWindowBytes c code done) (bs : List Byte) :
    CommandTaken KeepsDisplay c code bs := by
  obtain ⟨hne, -⟩ := hcode.ne hw
  have hcmd : ∀ r, (done r).cmd = r.cmd := by rcases hdone with rfl | rfl <;> exact fun _ => rfl
  exact ⟨commandKeeps_window hw hcode, fun _ => ⟨hne, fun b u hc hu => ⟨_, hdata b u hc hu,
    (ctlWindowByte_cmd b u done hcmd).trans hu, keepsDisplay_ctlWindowByte hdone b u⟩⟩⟩

theorem windowTransfers_stops (c : Config) : (windowTransfers c).map transferStop =
    commandStops c.cmdCaset 4 ++ (commandStops c.cmdRaset 4 ++ [transferStop ⟨.cmd, some c.cmdRamwr, 0⟩]) := rfl

/-- The frames of SET_WINDOW where one of their transfers fails. -/
theorem failsAt_windowFrames {x0 y0 x1 y1 : Half} {s : State} (hw : s.cfg.wf = true) (hidle : s.busSel = false) :
    FailsAt KeepsDisplay (windowFrames x0 y0 x1 y1) ((windowTransfers s.cfg).map transferStop) s := by
  have hK := keeping_keepsDisplay
  have hcaset : CommandTaken KeepsDisplay s.cfg s.cfg.cmdCaset (windowPayload x0 x1) :=
    commandTaken_window (.inl rfl) hw (.inl rfl) (takesWindowBytes_caset _) _
  have hraset : CommandTaken KeepsDisplay s.cfg s.cfg.cmdRaset (windowPayload y0 y1) :=
    commandTaken_window (.inr rfl) hw (.inr (.inl rfl)) (takesWindowBytes_raset hw) _
  show FailsAt KeepsDisplay (cmdWithPayload s.cfg.cmdCaset (windowPayload x0 x1) >>= fun _ =>
    cmdWithPayload s.cfg.cmdRaset (windowPayload y0 y1) >>= fun _ => openStream) _ s
  rw [windowTransfers_stops]
  refine (failsAt_cmdWithPayload hK hcaset hidle).bind hK fun rest htx => ?_
  refine (reached_cmdWithPayload hK hcaset hidle htx).mono fun _ t ht => ⟨ht, ?_⟩
  obtain ⟨⟨_, hframed, -⟩, -⟩ := id ht
  have hcfg := hframed.cfg
  rw [← hcfg] at hw hraset ⊢
  refine (failsAt_cmdWithPayload hK hraset hframed.busSel).bind hK fun rest htx => ?_
  refine (reached_cmdWithPayload hK hraset hframed.busSel htx).mono fun _ u hu => ⟨hu, ?_⟩
  obtain ⟨⟨_, hframed, -⟩, -⟩ := id hu
  have hcfg := hframed.cfg
  rw [← hcfg] at hw ⊢
  exact failsAt_openStream hK (commandKeeps_window hw (.inr (.inr rfl))) hframed.busSel

/-- The body of SET_WINDOW where one of its transfers fails: the window registers are then unspecified (R144). -/
theorem windowBody_failed {x0 y0 x1 y1 : Half} {s : State} {j : Nat} (hj : j < (windowTransfers s.cfg).length)
    {a : TxAns} {rest : List TxAns} (hw : s.cfg.wf = true) (hb : s.busSel = s.streamOpen)
    (htx : TransferFails s j a rest) :
    ∃ t, windowBody x0 y0 x1 y1 s = .error (transferStop (windowTransfers s.cfg)[j]) (freeWindowRegs t) ∧
      Reached KeepsDisplay (j + 1) rest (closeStream s) t := by
  obtain ⟨htxIn, ha⟩ := htx
  have hcfg := closeStream_cfg s
  have hfails := failsAt_windowFrames (x0 := x0) (y0 := y0) (x1 := x1) (y1 := y1) (s := closeStream s) (hcfg.symm ▸ hw)
    (closeStream_busSel s hb)
  rw [hcfg] at hfails
  obtain ⟨t, ht, hreached⟩ := hfails j (by rwa [List.length_map]) a rest ⟨(closeStream_txIn s).trans htxIn, ha⟩
  refine ⟨t, ?_, hreached⟩
  rw [windowBody, ht, List.getElem_map, transferStop]

/-- What an operation leaves whose window body failed at transfer `j`, `s` being the state the operation began in. -/
structure WindowFailed (j : Nat) (rest : List TxAns) (s t : State) : Prop where
  bus : BusReleased t
  txIn : t.txIn = rest
  transfers : (txEvents t.events).length = (txEvents s.events).length + j + 1
  display : SameDisplayRegs s t
  gram : NoHalfPixel s → SameGram s t
  decoder : SameDecoder s t
  inputs : SameOtherInputs s t

theorem releaseEvents_closed {s : State} (h : s.streamOpen = false) : releaseEvents s = [] := by simp [releaseEvents, h]

theorem length_txEvents_releaseEvents (s : State) : (txEvents (releaseEvents s)).length = 0 := by
  unfold releaseEvents
  split <;> rfl

/-- The abort sequence after a window body that failed (R144, R216). -/
theorem windowFailed_takeAbort {info : StInfo} {j : Nat} {rest : List TxAns} {s t : State} (hsrc : s.decSrcOpen = false)
    (h : Reached KeepsDisplay (j + 1) rest (closeStream s) t) :
    WindowFailed j rest s (takeAbort info .transferError (freeWindowRegs t)) := by
  obtain ⟨⟨es, hframed, hcount⟩, hdisplay, hgram, hepoch⟩ := h
  have hclosed : (freeWindowRegs t).streamOpen = false := hframed.streamOpen.trans (closeStream_streamOpen s)
  have hctl : (takeAbort info .transferError (freeWindowRegs t)).ctl = (freeWindowRegs t).ctl := by
    rw [takeAbort_frame rfl]
  have hdecoder : SameDecoder s (freeWindowRegs t) := by
    rw [Framed] at hframed
    rw [hframed]
    exact closeStream_sameDecoder s
  have hinputs : SameOtherInputs s (freeWindowRegs t) := by
    rw [Framed] at hframed
    rw [hframed]
    exact closeStream_sameOtherInputs s
  have hopen : (freeWindowRegs t).decSrcOpen = false := (sameDecoder_decSrcOpen hdecoder).trans hsrc
  refine ⟨takeAbort_busReleased rfl fun _ => hframed.busSel, ?_, ?_, ?_, fun hhalf a => ?_,
    sameDecoder_trans hdecoder (takeAbort_sameDecoder rfl hopen), ?_⟩
  · rw [takeAbort_frame rfl]
    exact hframed.txIn
  · have hevents : (freeWindowRegs t).events = s.events ++ releaseEvents s ++ es := by
      rw [← closeStream_events]
      exact hframed.events
    rw [takeAbort_events rfl, sourceCloseEvents_closed hopen, hevents, releaseEvents_closed hclosed]
    simp only [txEvents_append, List.length_append, length_txEvents_releaseEvents, hcount]
    rfl
  · rw [SameDisplayRegs, hctl, ← closeStream_ctl s]
    exact hdisplay
  · rw [gramByte_takeAbort rfl, closeStream_closed _ hclosed, ← sameGram_closeStream hhalf a, gramByte, gramByte, ← hgram,
      ← hepoch]
    rfl
  · rw [takeAbort_frame rfl]
    exact hinputs

/-- Settles O34: the frames fail at transfer `j`, the body frees the window registers, and the abort sequence follows. -/
theorem setWindowTransferFailure : Obligations.SetWindowTransferFailure := by
  intro x0 y0 x1 y1 s j hj a rest hready hw hr hb hsrc htx
  obtain ⟨t, hbody, hreached⟩ := windowBody_failed (x0 := x0) (y0 := y0) (x1 := x1) (y1 := y1) hj hw hb htx
  have hexec := runOperation_transferStop (op := .setWindow) (src := none) (body := setWindowBody x0 y0 x1 y1)
    ((setWindowBody_eq hready hr).trans (by rw [op_bind, hbody]))
  obtain ⟨hdrv, -⟩ := (settles_exec (i := .setWindow x0 y0 x1 y1) rfl hexec).driver nofun
  obtain ⟨hbus, hrest, hcount, hdisplay, hgram, hdecoder, hinputs⟩ := windowFailed_takeAbort hsrc hreached
  exact ⟨_, hexec, takeAbort_endedWith rfl, hdrv.trans hready, hbus, hrest, hcount, hdisplay, hgram, hdecoder, hinputs⟩

end Sys2Proof.Proofs
end

section
/-! PROOFS. INIT (spec/42_driver_ops.md R141, R142): the bus refused, every answer good, and any one of its transfers
failing (60_exceptions.md R215, R219; 40_framing.md R109). -/

namespace Sys2Proof.Proofs

open Sys2Proof.Machine Sys2Proof.Safety

/-! ## The claim and the reset pulse (R141, R108) -/

/-- INIT once the bus claim is answered: the stream closed, one answer taken. -/
def claimed (granted : Bool) (claims : List Bool) (s : State) : State :=
  { setSeq .initClaim (closeStream s) with
    claimIn := claims, trace := .busClaim granted :: (closeStream s).trace }

/-- INIT before its first command (R141). -/
def initStarted (claims : List Bool) (s : State) : State :=
  initPulse { claimed true claims s with drvState := .resetting }

section started
variable {claims : List Bool} {s : State}

theorem claimed_frame (granted : Bool) : claimed granted claims s = { s with
    busSel := if s.streamOpen then false else s.busSel, streamOpen := false, seq := .initClaim, claimIn := claims
    trace := (releaseEvents s ++ [Event.busClaim granted]).reverse ++ s.trace
    gram := (closeStream s).gram, gramEpoch := (closeStream s).gramEpoch, freeCtr := (closeStream s).freeCtr } := by
  rw [claimed, closeStream_frame]
  simp [setSeq]

theorem initPulse_frame (s : State) : initPulse s = { s with
    seq := (initPulse s).seq, rstLvl := if s.cfg.hasRst then .high else s.rstLvl
    trace := (pulseEvents s.cfg).reverse ++ s.trace
    ctl := (initPulse s).ctl, gram := (initPulse s).gram, gramEpoch := (initPulse s).gramEpoch
    freeCtr := (initPulse s).freeCtr } := by
  unfold initPulse pulseEvents
  split
  · rw [resetPulse_eq]
    rfl
  · rfl

theorem initStarted_frame : initStarted claims s = { s with
    drvState := .resetting, busSel := if s.streamOpen then false else s.busSel, streamOpen := false
    seq := (initStarted claims s).seq, claimIn := claims, rstLvl := if s.cfg.hasRst then .high else s.rstLvl
    trace := (releaseEvents s ++ [Event.busClaim true] ++ pulseEvents s.cfg).reverse ++ s.trace
    ctl := (initStarted claims s).ctl, gram := (initStarted claims s).gram
    gramEpoch := (initStarted claims s).gramEpoch, freeCtr := (initStarted claims s).freeCtr } := by
  rw [initStarted, initPulse_frame, claimed_frame]
  simp

/-- Once the check and the claim are through, INIT is its sequence of commands. -/
theorem initBody_granted (hlegal : s.drvState = .uninitialized ∨ s.drvState = .ready)
    (hclaim : s.claimIn = true :: claims) : initBody s =
      (initSequence >>= fun _ => update (fun t => { t with drvState := .ready }) >>= fun _ => pure none)
        (initStarted claims s) := by
  have hcheck : requireInitLegal s = .ok () s := if_pos (decide_eq_true hlegal)
  have hbus : busClaim (setSeq .initClaim (closeStream s)) = .ok true (claimed true claims s) :=
    busClaim_cons ((by rw [setSeq, closeStream_frame] : _ = s.claimIn).trans hclaim)
  simp only [initBody, initClaim, op_bind, hcheck, update_apply, hbus, if_true, op_pure, initStarted]

theorem initBody_refused (hlegal : s.drvState = .uninitialized ∨ s.drvState = .ready)
    (hclaim : s.claimIn = false :: claims) : initBody s =
      .error (.raise .initError (some .busClaim) (.initStep 0 none)) (initFailed (claimed false claims s)) := by
  have hcheck : requireInitLegal s = .ok () s := if_pos (decide_eq_true hlegal)
  have hbus : busClaim (setSeq .initClaim (closeStream s)) = .ok false (claimed false claims s) :=
    busClaim_cons ((by rw [setSeq, closeStream_frame] : _ = s.claimIn).trans hclaim)
  simp [initBody, initClaim, hcheck, hbus]

end started

/-- An INIT that raises an InitError has left the driver failed (R141, R219). -/
theorem drvState_of_initBody_raise {reason : Option Reason} {detail : Detail} {s t : State}
    (h : initBody s = .error (.raise .initError reason detail) t) : t.drvState = .failed := by
  have hbehaves := behaves_initBody (s := s)
  unfold Behaves Leaves at hbehaves
  rw [h] at hbehaves
  obtain ⟨hstatus, -⟩ | ⟨-, ⟨-, hfailed⟩, -⟩ := hbehaves
  · cases hstatus
  · exact hfailed

/-- Settles O30: the stream is closed, the claim is refused, and the abort sequence finds nothing open. -/
theorem initClaimFailure : Obligations.InitClaimFailure := by
  intro s claims hlegal hb hsrc hclaim
  have hbody := initBody_refused hlegal hclaim
  have hfailed := drvState_of_initBody_raise hbody
  refine ⟨_, runOperation_raise (op := .init) (src := none) hbody, takeAbort_endedWith rfl, ?_,
    (takeAbort_drvState _ _ _).trans hfailed, takeAbort_busReleased rfl fun _ => ?_, ?_⟩
  · have hclosed : releaseEvents (initFailed (claimed false claims s)) = [] := by
      rw [claimed_frame]
      rfl
    have hsource : sourceCloseEvents (initFailed (claimed false claims s)) = [] := by
      rw [claimed_frame]
      exact sourceCloseEvents_closed hsrc
    rw [takeAbort_events rfl, hclosed, hsource, claimed_frame]
    simp [State.events, initFailed, freeController]
  · exact closeStream_busSel s hb
  · rw [takeAbort_frame rfl, claimed_frame]
    exact ⟨rfl, rfl, rfl, rfl⟩

/-! ## Between the frames of INIT -/

theorem framed_waitFor (d : Delay) {s : State} (hb : s.busSel = false) : Framed [.wait d] s.txIn s (waitFor d s) := by
  rw [Framed, ← hb]
  rfl

theorem framed_drvState (d : DrvState) {s : State} (hb : s.busSel = false) :
    Framed [] s.txIn s { s with drvState := d } := by
  rw [Framed, ← hb]
  rfl

/-! ## The sequence of commands, where one of its transfers fails (R141, R215) -/

/-- Nothing is asked of the controller. -/
def Anything (_ _ : State) : Prop := True

theorem keeping_anything : Keeping Anything := ⟨fun _ => trivial, fun _ _ => trivial⟩

/-- The stop that step `n` of INIT raises for a failed transfer (R215). -/
def initStop (p : Nat × TransferInfo) : Stop := .raise .initError (some .transfer) (.initStep p.1 (some p.2))

/-- A part of INIT with the stops of its transfers: all answered ok it returns after them, and where one fails it raises
that transfer's stop. -/
def InitPart (c : Config) (x : Op Unit) (stops : List Stop) : Prop :=
  ∀ s : State, s.cfg = c → s.busSel = false → FailsAt Anything x stops s ∧
    ∀ rest, TransfersOk s stops.length rest → Returns x (fun _ t => Reached Anything stops.length rest s t) s

section initParts
variable {c : Config} {x y : Op Unit} {stops stops' : List Stop}

theorem InitPart.bind (hx : InitPart c x stops) (hy : InitPart c y stops') :
    InitPart c (x >>= fun _ => y) (stops ++ stops') := by
  intro s hc hb
  obtain ⟨hfails, hreturns⟩ := hx s hc hb
  have hnext : ∀ {rest : List TxAns} {t : State}, Reached Anything stops.length rest s t →
      t.cfg = c ∧ t.busSel = false ∧ t.txIn = rest := by
    rintro rest t ⟨⟨_, hframed, -⟩, -⟩
    exact ⟨hframed.cfg.trans hc, hframed.busSel, hframed.txIn⟩
  constructor
  · refine hfails.bind keeping_anything fun rest htx => (hreturns rest htx).mono fun _ t ht => ⟨ht, ?_⟩
    obtain ⟨htc, htb, -⟩ := hnext ht
    exact (hy t htc htb).1
  · intro rest htx
    rw [List.length_append, TransfersOk, List.replicate_add, List.append_assoc] at htx
    refine .bind ((hreturns _ htx).mono fun _ t ht => ?_)
    obtain ⟨htc, htb, htxIn⟩ := hnext ht
    refine ((hy t htc htb).2 rest htxIn).mono fun _ u hu => ?_
    rw [List.length_append]
    exact ht.trans keeping_anything hu

/-- A state update between the frames makes no transfer. -/
theorem initPart_update {f : State → State} {es : List Event} (hes : txEvents es = [])
    (hf : ∀ s, s.busSel = false → Framed es s.txIn s (f s)) : InitPart c (update f) [] := by
  intro s _ hb
  refine ⟨failsAt_nil _, fun rest htx => ?_⟩
  obtain rfl : s.txIn = rest := htx
  exact ⟨(), _, rfl, ⟨es, hf s hb, congrArg List.length hes⟩, trivial⟩

/-- Any payload byte outside a pixel stream is taken. -/
theorem commandTaken_anything {code : Byte} (hw : c.wf = true) (hreset : code ≠ c.cmdSwreset) (hramwr : code ≠ c.cmdRamwr)
    (bs : List Byte) : CommandTaken Anything c code bs := by
  refine ⟨fun _ _ => trivial, fun _ => ⟨hreset, ?_⟩⟩
  rintro b u rfl hcmd
  have hfit : PixelsFit u := fun h => absurd (Option.some.inj (hcmd.symm.trans h)) hramwr
  obtain ⟨v, hv, hvcmd, -⟩ := ctlData_ok b hw hfit
  exact ⟨v, hv, hvcmd.trans hcmd, trivial⟩

/-- A command without a payload is taken whatever it is. -/
theorem commandTaken_anything_nil (code : Byte) : CommandTaken Anything c code [] :=
  ⟨fun _ _ => trivial, fun h => absurd rfl h⟩

theorem initPart_commandThenSettle {code : Config → Byte} {payload : Config → List Byte} {d : Delay}
    (h : CommandTaken Anything c (code c) (payload c)) :
    InitPart c (commandThenSettle code payload d) (commandStops (code c) (payload c).length) := by
  have hframe : InitPart c (cmdWithPayload (code c) (payload c)) (commandStops (code c) (payload c).length) := by
    rintro s rfl hb
    refine ⟨failsAt_cmdWithPayload keeping_anything h hb, fun rest htx => ?_⟩
    have hlen : (commandStops (code s.cfg) (payload s.cfg).length).length = 1 + (payload s.cfg).length := by
      simp [commandStops, dataStops, Nat.add_comm]
    rw [hlen] at htx ⊢
    exact reached_cmdWithPayload keeping_anything h hb htx
  have hall := hframe.bind (initPart_update (es := [.wait d]) rfl fun _ => framed_waitFor d)
  rw [List.append_nil] at hall
  intro s hc
  subst hc
  exact hall s rfl

/-- A step of INIT names itself in the error of a failed transfer (R215), and leaves the controller to any state (R219). -/
theorem InitPart.initStep {n : Nat} {q : Seq} {infos : List TransferInfo} (h : InitPart c x (infos.map transferStop)) :
    InitPart c (initStep n q x) (infos.map fun info => initStop (n, info)) := by
  intro s hc hb
  obtain ⟨hfails, hreturns⟩ := h (setSeq q s) hc hb
  constructor
  · intro j hj a rest htx
    rw [List.length_map] at hj
    obtain ⟨t, ht, ⟨es, hframed, hcount⟩, -⟩ := hfails j (by rwa [List.length_map]) a rest htx
    refine ⟨initFailed t, ?_, ⟨es, ?_, hcount⟩, trivial⟩
    · rw [Machine.initStep, ht, List.getElem_map, List.getElem_map]
      rfl
    · rw [Framed] at hframed ⊢
      rw [hframed]
      rfl
  · intro rest htx
    rw [List.length_map] at htx hreturns ⊢
    obtain ⟨⟨⟩, t, ht, ⟨es, hframed, hcount⟩, -⟩ := hreturns rest htx
    exact ⟨(), t, by rw [Machine.initStep, ht], ⟨es, hframed, hcount⟩, trivial⟩

end initParts

/-- The stops of INIT's transfers are the reports of the specification (R141, R215). -/
theorem initPart_initSequence {c : Config} (hw : c.wf = true) :
    InitPart c initSequence ((initTransfers c).map initStop) := by
  obtain ⟨⟨-, -, ⟨hcolmod, -, hcolmod', -⟩, hmadctl, -, hmadctl', -⟩, -⟩ := wf_distinct hw
  have hswreset := initPart_commandThenSettle (code := Config.cmdSwreset) (payload := fun _ => []) (d := .swreset)
    (commandTaken_anything_nil c.cmdSwreset)
  have hslpout := initPart_commandThenSettle (code := Config.cmdSlpout) (payload := fun _ => []) (d := .slpout)
    (commandTaken_anything_nil c.cmdSlpout)
  have hcolmod := initPart_commandThenSettle (code := Config.cmdColmod) (payload := fun c => [c.colmodVal]) (d := .colmod)
    (commandTaken_anything hw hcolmod hcolmod' [c.colmodVal])
  have hmadctl := initPart_commandThenSettle (code := Config.cmdMadctl) (payload := fun c => [c.madctlVal]) (d := .madctl)
    (commandTaken_anything hw hmadctl hmadctl' [c.madctlVal])
  have hdispon := initPart_commandThenSettle (code := Config.cmdDispon) (payload := fun _ => []) (d := .dispon)
    (commandTaken_anything_nil c.cmdDispon)
  exact (hswreset.initStep (infos := [⟨.cmd, some c.cmdSwreset, 0⟩])).bind <|
    (initPart_update rfl fun _ => framed_drvState .initializing).bind <|
    (hslpout.initStep (infos := [⟨.cmd, some c.cmdSlpout, 0⟩])).bind <|
    (hcolmod.initStep (infos := [⟨.cmd, some c.cmdColmod, 0⟩, ⟨.data, none, 0⟩])).bind <|
    (hmadctl.initStep (infos := [⟨.cmd, some c.cmdMadctl, 0⟩, ⟨.data, none, 0⟩])).bind
    (hdispon.initStep (infos := [⟨.cmd, some c.cmdDispon, 0⟩]))

/-- The sequence of commands begins with the bus free, the stream closed, and only the claim's answer taken. -/
theorem initStarted_ready {claims : List Bool} {s : State} (hb : s.busSel = s.streamOpen) :
    (initStarted claims s).cfg = s.cfg ∧ (initStarted claims s).busSel = false ∧
      (initStarted claims s).txIn = s.txIn := by
  have hidle := closeStream_busSel s hb
  rw [closeStream_frame] at hidle
  rw [initStarted_frame]
  exact ⟨rfl, hidle, rfl⟩

theorem length_txEvents_initStarted (claims : List Bool) (s : State) :
    (txEvents (initStarted claims s).events).length = (txEvents s.events).length := by
  have hevents : (initStarted claims s).events =
      s.events ++ (releaseEvents s ++ [Event.busClaim true] ++ pulseEvents s.cfg) := by
    rw [initStarted_frame]
    simp [State.events]
  have hpulse : (txEvents (pulseEvents s.cfg)).length = 0 := by
    unfold pulseEvents
    split <;> rfl
  rw [hevents]
  simp only [txEvents_append, List.length_append, length_txEvents_releaseEvents, hpulse]
  rfl

/-- Settles O31: the sequence fails at transfer `j` with that transfer's stop, and the abort sequence follows. -/
theorem initTransferFailure : Obligations.InitTransferFailure := by
  intro s claims j hj a rest hlegal hw hb hsrc hclaim ⟨htx, ha⟩
  obtain ⟨hcfg, hidle, htxIn⟩ := initStarted_ready (claims := claims) hb
  obtain ⟨t, ht, ⟨es, hframed, hcount⟩, -⟩ := (initPart_initSequence hw _ hcfg hidle).1 j (by rwa [List.length_map]) a
    rest ⟨htxIn.trans htx, ha⟩
  have hbody : initBody s = .error (initStop (initTransfers s.cfg)[j]) t := by
    rw [initBody_granted hlegal hclaim, op_bind, ht, List.getElem_map]
  have hfailed := drvState_of_initBody_raise hbody
  have htransfers : (txEvents t.events).length = (txEvents s.events).length + j + 1 := by
    rw [hframed.events, txEvents_append, List.length_append, length_txEvents_initStarted, hcount, Nat.add_assoc]
  rw [Framed, initStarted_frame] at hframed
  have hclosed : t.streamOpen = false := by rw [hframed]
  have hsource : t.decSrcOpen = false := by rw [hframed]; exact hsrc
  have hdecoder : SameDecoder s t := by rw [hframed]; exact sameDecoder_refl s
  refine ⟨_, runOperation_raise (op := .init) (src := none) hbody, takeAbort_endedWith rfl,
    (takeAbort_drvState _ _ _).trans hfailed, takeAbort_busReleased rfl fun _ => by rw [hframed], ?_, ?_, ?_,
    sameDecoder_trans hdecoder (takeAbort_sameDecoder rfl hsource)⟩
  · rw [takeAbort_frame rfl, hframed]
  · rw [takeAbort_frame rfl, hframed]
  · rw [takeAbort_events rfl, releaseEvents_closed hclosed, sourceCloseEvents_closed hsource, List.append_nil,
      List.append_nil, htransfers]

/-! ## The sequence of commands with every answer good (R141, R142) -/

/-- A predicate on the configuration and the controller's registers speaks of the controller alone. -/
theorem controllerOnly_registers (F : Config → Ctl → Prop) : ControllerOnly fun t => F t.cfg t.ctl := by
  rintro u v ⟨hcfg, hctl, -⟩ h
  rwa [hcfg, hctl]

/-- The registers after SWRESET (R122), as far as no later command of INIT changes them. -/
def AtReset (_ : Config) (r : Ctl) : Prop := r.wp = 0 ∧ r.hi = none

/-- The registers after SLPOUT too (R123). -/
def Awake (c : Config) (r : Ctl) : Prop := AtReset c r ∧ r.sleep = false

/-- The registers after COLMOD too (R127). -/
def ColmodSet (c : Config) (r : Ctl) : Prop := Awake c r ∧ r.colmod = c.colmodVal ∧ r.colmodRecv = true

/-- The registers after MADCTL too (R128). -/
def MadctlSet (c : Config) (r : Ctl) : Prop := ColmodSet c r ∧ r.madctl = c.madctlVal

/-- The registers after DISPON too, INIT's last command (R129). -/
def DisplayOn (c : Config) (r : Ctl) : Prop := MadctlSet c r ∧ r.disp = true ∧ r.cmd = some c.cmdDispon

/-- The command `code` waits for its payload byte, and `F` holds of the registers. -/
def Waiting (F : Config → Ctl → Prop) (code : Byte) (c : Config) (r : Ctl) : Prop :=
  F c r ∧ r.cmd = some code ∧ r.argi = 0

section commands
variable {u : State}

theorem atReset_swreset (u : State) : AtReset u.cfg (ctlCommand u.cfg.cmdSwreset u).ctl := by
  rw [ctlCommand_swreset_eq]
  exact ⟨rfl, rfl⟩

theorem atReset_begun (b : Byte) (h : AtReset u.cfg u.ctl) : AtReset u.cfg (ctlBegin b (ctlEndContext u)).ctl := by
  have hbegun := contextBegun b u
  exact ⟨hbegun.wp.trans h.1, hbegun.hi⟩

theorem awake_begun (b : Byte) (h : Awake u.cfg u.ctl) : Awake u.cfg (ctlBegin b (ctlEndContext u)).ctl := by
  obtain ⟨hreset, hsleep⟩ := h
  obtain ⟨-, -, -, hkept, -⟩ := (contextBegun b u).display
  exact ⟨atReset_begun b hreset, hkept.trans hsleep⟩

theorem colmodSet_begun (b : Byte) (h : ColmodSet u.cfg u.ctl) : ColmodSet u.cfg (ctlBegin b (ctlEndContext u)).ctl := by
  obtain ⟨hawake, hcolmod, hrecv⟩ := h
  obtain ⟨-, kcolmod, krecv, -⟩ := (contextBegun b u).display
  exact ⟨awake_begun b hawake, kcolmod.trans hcolmod, krecv.trans hrecv⟩

theorem madctlSet_begun (b : Byte) (h : MadctlSet u.cfg u.ctl) : MadctlSet u.cfg (ctlBegin b (ctlEndContext u)).ctl := by
  obtain ⟨hcolmod, hmadctl⟩ := h
  obtain ⟨kmadctl, -⟩ := (contextBegun b u).display
  exact ⟨colmodSet_begun b hcolmod, kmadctl.trans hmadctl⟩

variable (hw : u.cfg.wf = true)
include hw

theorem awake_slpout (h : AtReset u.cfg u.ctl) : Awake u.cfg (ctlCommand u.cfg.cmdSlpout u).ctl := by
  rw [Except.ok.inj (ctlFrame_slpout hw)]
  exact ⟨atReset_begun u.cfg.cmdSlpout h, rfl⟩

theorem waiting_colmod (h : Awake u.cfg u.ctl) :
    Waiting Awake u.cfg.cmdColmod u.cfg (ctlCommand u.cfg.cmdColmod u).ctl := by
  obtain ⟨⟨-, -, hawaits, -⟩, -⟩ := wf_distinct hw
  rw [ctlCommand_awaitsPayload hawaits]
  exact ⟨awake_begun _ h, rfl, rfl⟩

theorem colmodSet_colmod (h : Waiting Awake u.cfg.cmdColmod u.cfg u.ctl) :
    ∃ v, ctlDatas [u.cfg.colmodVal] u = .ok v ∧ ColmodSet v.cfg v.ctl := by
  obtain ⟨hawake, hcmd, hargi⟩ := h
  have htaken : ctlDatas [u.cfg.colmodVal] u = .ok (colmodReceived u.cfg.colmodVal u) := by
    rw [ctlDatas, ctlData_colmod _ hw hcmd hargi]
    rfl
  exact ⟨_, htaken, hawake, rfl, rfl⟩

theorem waiting_madctl (h : ColmodSet u.cfg u.ctl) :
    Waiting ColmodSet u.cfg.cmdMadctl u.cfg (ctlCommand u.cfg.cmdMadctl u).ctl := by
  obtain ⟨⟨-, -, -, hawaits⟩, -⟩ := wf_distinct hw
  rw [ctlCommand_awaitsPayload hawaits]
  exact ⟨colmodSet_begun _ h, rfl, rfl⟩

theorem madctlSet_madctl (h : Waiting ColmodSet u.cfg.cmdMadctl u.cfg u.ctl) :
    ∃ v, ctlDatas [u.cfg.madctlVal] u = .ok v ∧ MadctlSet v.cfg v.ctl := by
  obtain ⟨hcolmod, hcmd, hargi⟩ := h
  have htaken : ctlDatas [u.cfg.madctlVal] u = .ok (madctlReceived u.cfg.madctlVal u) := by
    rw [ctlDatas, ctlData_madctl _ hw hcmd hargi]
    rfl
  exact ⟨_, htaken, hcolmod, rfl⟩

theorem displayOn_dispon (h : MadctlSet u.cfg u.ctl) : DisplayOn u.cfg (ctlCommand u.cfg.cmdDispon u).ctl := by
  rw [Except.ok.inj (ctlFrame_dispon hw)]
  exact ⟨madctlSet_begun u.cfg.cmdDispon h, rfl, (contextBegun u.cfg.cmdDispon u).cmd⟩

end commands

/-- With the bus free and its `n` transfers all ok, the part `x` of INIT makes the events `es`, and takes `F` to `Q`. -/
def Brings (c : Config) (F : State → Prop) (x : Op Unit) (n : Nat) (es : List Event) (Q : State → Prop) : Prop :=
  ∀ (s : State) (rest : List TxAns), s.cfg = c → s.busSel = false → F s → TransfersOk s n rest →
    Returns x (fun _ t => Framed es rest s t ∧ Q t) s

theorem Brings.bind {c : Config} {F P Q : State → Prop} {x y : Op Unit} {n m : Nat} {es fs : List Event}
    (hx : Brings c F x n es P) (hy : Brings c P y m fs Q) : Brings c F (x >>= fun _ => y) (n + m) (es ++ fs) Q := by
  intro s rest hc hb hF htx
  rw [TransfersOk, List.replicate_add, List.append_assoc] at htx
  refine .bind ((hx s _ hc hb hF htx).mono ?_)
  rintro - t ⟨hfirst, hP⟩
  refine (hy t rest (hfirst.cfg.trans hc) hfirst.busSel hP hfirst.txIn).mono ?_
  rintro - u ⟨hsecond, hQ⟩
  exact ⟨hfirst.trans hsecond, hQ⟩

/-- `F` of the configuration and the controller's registers. -/
def Registers (F : Config → Ctl → Prop) (s : State) : Prop := F s.cfg s.ctl

theorem brings_drvState {c : Config} (d : DrvState) (F : Config → Ctl → Prop) :
    Brings c (Registers F) (update fun s => { s with drvState := d }) 0 [] (Registers F) := by
  intro s rest _ hb hF htx
  obtain rfl : s.txIn = rest := htx
  exact ⟨(), _, rfl, framed_drvState d hb, hF⟩

/-- A step of INIT: `F` before it, `P` after its command byte, `Q` after its payload. -/
theorem brings_initStep {k : Nat} {q : Seq} {code : Config → Byte} {payload : Config → List Byte} {d : Delay} {c : Config}
    {F P Q : Config → Ctl → Prop}
    (hcode : ∀ u : State, u.cfg = c → F u.cfg u.ctl → P u.cfg (ctlCommand (code u.cfg) u).ctl)
    (hdata : ∀ u : State, u.cfg = c → P u.cfg u.ctl → ∃ v, ctlDatas (payload u.cfg) u = .ok v ∧ Q v.cfg v.ctl) :
    Brings c (Registers F) (initStep k q (commandThenSettle code payload d)) (1 + (payload c).length)
      (cmdEvents c (code c) ++ payloadEvents c (payload c) ++ [.wait d])
      (fun t => Registers Q t ∧ (payload c = [] → t.dc = .cmd)) := by
  rintro s rest rfl hidle hF htx
  have hcommand : ∀ u, SameController (setSeq q s) u → Registers P (ctlCommand (code s.cfg) u) := by
    rintro u ⟨hcfg : u.cfg = s.cfg, hctl, -⟩
    have hu := hcode u hcfg (by rw [hcfg, hctl]; exact hF)
    rw [Registers, onlyController_cfg (ctlCommand_only _ u)]
    rwa [hcfg] at hu ⊢
  have hpayload : ∀ u : State, u.cfg = (setSeq q s).cfg → Registers P u →
      ∃ v, ctlDatas (payload s.cfg) u = .ok v ∧ Registers Q v := fun u hcfg hp => hcfg ▸ hdata u hcfg hp
  obtain ⟨⟨⟩, t, ht, hframed, hq, hdc⟩ := returns_cmdWithPayload (code := code s.cfg) (bs := payload s.cfg)
    (s := setSeq q s) (controllerOnly_registers P) (controllerOnly_registers Q) hcommand hpayload hidle htx
  have hsettled : Framed [.wait d] rest t (waitFor d t) := hframed.txIn ▸ framed_waitFor d hframed.busSel
  refine ⟨(), waitFor d t, ?_, hframed.trans hsettled, hq, hdc⟩
  have hbody : commandThenSettle code payload d (setSeq q s) = .ok () (waitFor d t) := by
    show (cmdWithPayload (code s.cfg) (payload s.cfg) >>= fun _ => update (waitFor d)) (setSeq q s) = _
    rw [op_bind, ht]
    rfl
  rw [initStep, hbody]

theorem Brings.weaken {c : Config} {F P Q : State → Prop} {x : Op Unit} {n : Nat} {es : List Event}
    (h : Brings c F x n es P) (hPQ : ∀ t, P t → Q t) : Brings c F x n es Q := fun s rest hc hb hF htx =>
  (h s rest hc hb hF htx).mono fun _ t ht => ht.imp_right (hPQ t)

/-- INIT's commands (R141, R142). -/
theorem brings_initSequence {c : Config} (hw : c.wf = true) :
    Brings c (Registers fun _ _ => True) initSequence 7
      (cmdEvents c c.cmdSwreset ++ [.wait .swreset] ++ (cmdEvents c c.cmdSlpout ++ [.wait .slpout] ++
        (cmdEvents c c.cmdColmod ++ dataEvents c [c.colmodVal] ++ [.wait .colmod] ++
        (cmdEvents c c.cmdMadctl ++ dataEvents c [c.madctlVal] ++ [.wait .madctl] ++
        (cmdEvents c c.cmdDispon ++ [.wait .dispon])))))
      (fun t => Registers DisplayOn t ∧ t.dc = .cmd) := by
  have hswreset : Brings c _ (initStep 2 .initS2 (commandThenSettle Config.cmdSwreset (fun _ => []) .swreset)) 1
      (cmdEvents c c.cmdSwreset ++ [.wait .swreset]) (Registers AtReset) :=
    (brings_initStep (F := fun _ _ => True) (P := AtReset) (Q := AtReset) (fun u _ _ => atReset_swreset u)
      fun u _ h => ⟨u, rfl, h⟩).weaken fun _ h => h.1
  have hslpout : Brings c _ (initStep 3 .initS3 (commandThenSettle Config.cmdSlpout (fun _ => []) .slpout)) 1
      (cmdEvents c c.cmdSlpout ++ [.wait .slpout]) (Registers Awake) :=
    (brings_initStep (P := Awake) (Q := Awake) (fun u hc => awake_slpout (hc ▸ hw)) fun u _ h => ⟨u, rfl, h⟩).weaken
      fun _ h => h.1
  have hcolmod : Brings c _ (initStep 4 .initS4 (commandThenSettle Config.cmdColmod (fun c => [c.colmodVal]) .colmod)) 2
      (cmdEvents c c.cmdColmod ++ dataEvents c [c.colmodVal] ++ [.wait .colmod]) (Registers ColmodSet) :=
    (brings_initStep (P := fun c => Waiting Awake c.cmdColmod c) (fun u hc => waiting_colmod (hc ▸ hw))
      fun u hc => colmodSet_colmod (hc ▸ hw)).weaken fun _ h => h.1
  have hmadctl : Brings c _ (initStep 5 .initS5 (commandThenSettle Config.cmdMadctl (fun c => [c.madctlVal]) .madctl)) 2
      (cmdEvents c c.cmdMadctl ++ dataEvents c [c.madctlVal] ++ [.wait .madctl]) (Registers MadctlSet) :=
    (brings_initStep (P := fun c => Waiting ColmodSet c.cmdMadctl c) (fun u hc => waiting_madctl (hc ▸ hw))
      fun u hc => madctlSet_madctl (hc ▸ hw)).weaken fun _ h => h.1
  have hdispon : Brings c _ (initStep 6 .initS6 (commandThenSettle Config.cmdDispon (fun _ => []) .dispon)) 1
      (cmdEvents c c.cmdDispon ++ [.wait .dispon]) (fun t => Registers DisplayOn t ∧ t.dc = .cmd) :=
    (brings_initStep (P := DisplayOn) (Q := DisplayOn) (fun u hc => displayOn_dispon (hc ▸ hw))
      fun u _ h => ⟨u, rfl, h⟩).weaken fun _ h => h.imp_right fun hdc => hdc rfl
  exact hswreset.bind <| (brings_drvState .initializing AtReset).bind <| hslpout.bind <| hcolmod.bind <|
    hmadctl.bind hdispon

/-- Settles O29: the claim, the pulse and the commands in turn. -/
theorem initCompletes : Obligations.InitCompletes := by
  intro s claims rest hlegal hw hb hclaim htx
  obtain ⟨hcfg, hidle, htxIn⟩ := initStarted_ready (claims := claims) hb
  obtain ⟨⟨⟩, t, ht, hframed, ⟨⟨⟨⟨⟨hwp, hhi⟩, hsleep⟩, hcolmod, hrecv⟩, hmadctl⟩, hdisp, hcmd⟩, hdc⟩ :=
    brings_initSequence hw _ rest hcfg hidle trivial (htxIn.trans htx)
  have hexec : exec .init s = .next (returnOk none { t with drvState := .ready }) := by
    show runOperation .init none initBody s = _
    rw [runOperation, initBody_granted hlegal hclaim, op_bind, ht]
    rfl
  have htcfg := hframed.cfg.trans hcfg
  rw [htcfg] at hcolmod hmadctl hcmd
  have hsixteen : sixteenBit t = s.cfg.colmodIs16 := by
    rw [sixteenBit, hrecv, hcolmod, htcfg]
    simp
  rw [Framed, initStarted_frame] at hframed
  have hevents : t.events = s.events ++ releaseEvents s ++ [.busClaim true] ++ initEvents s.cfg := by
    rw [hframed]
    simp [State.events, initEvents]
  have hrest : t.busSel = false ∧ t.streamOpen = false ∧ t.rstLvl = (if s.cfg.hasRst then .high else s.rstLvl) ∧
      SameDecoder s t ∧ t.claimIn = claims ∧ t.txIn = rest ∧ t.input = s.input ∧ t.newInstance = s.newInstance ∧
      t.openIn = s.openIn ∧ t.readIn = s.readIn ∧ t.cancelIn = s.cancelIn := by
    rw [hframed]
    exact ⟨rfl, rfl, rfl, sameDecoder_refl s, rfl, rfl, rfl, rfl, rfl, rfl, rfl⟩
  obtain ⟨hbus, hstream, hrst, hports⟩ := hrest
  exact ⟨_, hexec, ⟨rfl, rfl, rfl, rfl⟩, hevents, rfl, ⟨hbus, hstream⟩, hdc, hrst, hsleep, hdisp, hcolmod, hmadctl, hcmd,
    hwp, hhi, hsixteen, htcfg, hports⟩

end Sys2Proof.Proofs
end

section
/-! PROOFS. FILL (spec/42_driver_ops.md R148, R149): the chunk loop as one stream, the panel it paints, and any transfer
failing (40_framing.md R106, R109).

The loop writes the sequencer between its chunks. The controller and the bus do not see it, so the chunks are followed up to
the status registers, `returnOk none`, in which two states that differ in the sequencer alone are the same. -/

namespace Sys2Proof.Proofs

open Sys2Proof.Machine Sys2Proof.Safety

/-! ## The bytes of a fill (R148) -/

theorem fillChunkBytes_append (color : Half) (sent m n : Nat) :
    fillChunkBytes color sent (m + n) = fillChunkBytes color sent m ++ fillChunkBytes color (sent + m) n := by
  simp [fillChunkBytes, List.range_add, Nat.add_assoc]

theorem length_fillChunkBytes (color : Half) (sent m : Nat) : (fillChunkBytes color sent m).length = m := by
  simp [fillChunkBytes]

/-- The bytes of a fill do not depend on how they are cut into chunks. -/
theorem fillStream_eq (c : Config) (color : Half) : fillStream c color = fillChunkBytes color 0 (fillTotal c) := by
  simp [fillStream, fillChunkBytes, fillTotal, fillByte]

theorem take_fillChunkBytes (color : Half) (sent : Nat) {m n : Nat} (h : n ≤ m) :
    (fillChunkBytes color sent m).take n = fillChunkBytes color sent n := by
  obtain ⟨k, rfl⟩ := Nat.exists_eq_add_of_le h
  rw [fillChunkBytes_append, List.take_left' (length_fillChunkBytes color sent n)]

theorem length_take_fillStream {c : Config} (color : Half) {n : Nat} (hn : n ≤ fillTotal c) :
    ((fillStream c color).take n).length = n := by
  rw [fillStream_eq, take_fillChunkBytes _ _ hn, length_fillChunkBytes]

/-! ## What the status registers hide -/

section hidden
variable {r : Option Half} {s t : State}

theorem ctlHalfPixel_returnOk : ctlHalfPixel (returnOk r s) = returnOk r (ctlHalfPixel s) := by
  unfold ctlHalfPixel
  simp only [apply_ite (returnOk r), freeStreamEffect_returnOk]
  rfl

theorem closeStream_opened (h : s.streamOpen = true) :
    closeStream s = { ctlHalfPixel (releaseBus s) with streamOpen := false } := if_pos h

theorem closeStream_returnOk : closeStream (returnOk r s) = returnOk r (closeStream s) := by
  have hhalf := ctlHalfPixel_returnOk (r := r) (s := releaseBus s)
  by_cases ho : s.streamOpen = true
  · rw [closeStream_opened ho, closeStream_opened (s := returnOk r s) ho]
    exact congrArg (fun u : State => { u with streamOpen := false }) hhalf
  · rw [closeStream_closed _ (Bool.eq_false_iff.2 ho), closeStream_closed (returnOk r s) (Bool.eq_false_iff.2 ho)]

theorem takeAbort_returnOk {info : StInfo} {code : StCode} (hcode : code.statusOnly = false) :
    takeAbort info code (returnOk r s) = takeAbort info code s := by
  rw [takeAbort_frame hcode, takeAbort_frame hcode, closeStream_returnOk]
  rfl

/-- Two states that differ in the status registers alone end alike. -/
theorem closeStream_congr (h : returnOk r s = t) : returnOk r (closeStream s) = closeStream t := by
  rw [← h, closeStream_returnOk]

/-- A transfer is the same from a state that differs in the status registers alone. -/
theorem tx_of_returnOk {b : Byte} {ok : Bool} (h : tx b (returnOk r s) = .ok ok t) :
    ∃ u, tx b s = .ok ok u ∧ returnOk r u = t := by
  rw [tx_returnOk] at h
  cases hs : tx b s with
  | error e u => rw [hs] at h; cases h
  | ok a u =>
    rw [hs] at h
    cases h
    exact ⟨u, rfl, rfl⟩

theorem Sends.cfg {bs : List Byte} (h : Sends bs s t) : t.cfg = s.cfg := by
  induction h with
  | nil => rfl
  | @cons b _ s u _ hb _ ih =>
    rcases tx_cases b s with ⟨ok, v, e, -, -, honly⟩ | ⟨f, v, e⟩ <;> rw [e] at hb <;> cases hb
    have hbyte := onlyController_cfg honly
    exact ih.trans hbyte

end hidden

/-! ## The chunk loop (R148) -/

section loop
variable {color : Half} {total fuel sent : Nat} {s u : State}

/-- A round of the loop is one chunk, and the loop after it. -/
theorem fillLoop_round {m : Nat} (hlt : sent < total) (hm : m = min s.cfg.fillChunk (total - sent)) :
    fillLoop color total (fuel + 1) sent s =
      match append (fillChunkBytes color sent m) (setSeq (.fillData sent) s) with
      | .ok _ t => fillLoop color total fuel (sent + m) t
      | .error e t => .error e t := by
  subst hm
  rw [fillLoop, if_pos hlt]
  have hcfg : (setSeq (.fillData sent) s).cfg = s.cfg := rfl
  simp only [op_bind, update_apply, look_apply, hcfg]
  cases append (fillChunkBytes color sent (min s.cfg.fillChunk (total - sent))) (setSeq (.fillData sent) s) <;> rfl

theorem fillLoop_chunk {t : State} {m : Nat} (hopen : s.streamOpen = true) (hlt : sent < total)
    (hm : m = min s.cfg.fillChunk (total - sent))
    (h : Sends (fillChunkBytes color sent m) (setSeq (.fillData sent) s) t) :
    fillLoop color total (fuel + 1) sent s = fillLoop color total fuel (sent + m) t := by
  rw [fillLoop_round hlt hm, append_open (s := setSeq (.fillData sent) s) hopen, sendBytes_eq_ok_iff.2 h]

/-- The loop sends the rest of the fill as one stream. -/
theorem fillLoop_sends (hchunk : 0 < s.cfg.fillChunk) (hopen : s.streamOpen = true) (hfuel : total ≤ sent + fuel)
    (h : Sends (fillChunkBytes color sent (total - sent)) (returnOk none s) u) :
    ∃ v, fillLoop color total fuel sent s = .ok () v ∧ returnOk none v = u := by
  induction fuel generalizing sent s with
  | zero =>
    have hend : total ≤ sent := hfuel
    rw [Nat.sub_eq_zero_of_le hend] at h
    cases h
    exact ⟨s, by rw [fillLoop, if_neg (Nat.not_lt.2 hend)]; rfl, rfl⟩
  | succ fuel ih =>
    by_cases hlt : sent < total
    · obtain ⟨m, hm⟩ : ∃ m, m = min s.cfg.fillChunk (total - sent) := ⟨_, rfl⟩
      have hbytes : total - sent = m + (total - (sent + m)) := by omega
      rw [hbytes, fillChunkBytes_append] at h
      obtain ⟨w, hfirst, hrest⟩ := h.split
      obtain ⟨t, ht, rfl⟩ := hfirst.before_returnOk (s := setSeq (.fillData sent) s)
      obtain ⟨-, htopen⟩ := ht.keeps
      rw [fillLoop_chunk hopen hlt hm ht]
      exact ih (ht.cfg.symm ▸ hchunk) (htopen.trans hopen) (by omega) hrest
    · rw [Nat.sub_eq_zero_of_le (Nat.not_lt.1 hlt)] at h
      cases h
      exact ⟨s, by rw [fillLoop, if_neg hlt]; rfl, rfl⟩

/-- The loop stops at the byte that fails, which it reports by its place in its chunk. -/
theorem fillLoop_fails {j : Nat} {w : State} (hchunk : 0 < s.cfg.fillChunk) (hopen : s.streamOpen = true)
    (hfuel : total ≤ sent + fuel) (hj : sent ≤ j) (hjt : j < total) (haligned : sent % s.cfg.fillChunk = 0)
    (h : Sends (fillChunkBytes color sent (j - sent)) (returnOk none s) u) (hfail : tx (fillByte color j) u = .ok false w) :
    ∃ v, fillLoop color total fuel sent s =
      .error (transferStop ⟨.stream, none, j % s.cfg.fillChunk⟩) (closeStream v) ∧ returnOk none v = w := by
  induction fuel generalizing sent s with
  | zero => omega
  | succ fuel ih =>
    have hlt : sent < total := Nat.lt_of_le_of_lt hj hjt
    obtain ⟨m, hm⟩ : ∃ m, m = min s.cfg.fillChunk (total - sent) := ⟨_, rfl⟩
    by_cases hin : j < sent + m
    · obtain ⟨t, ht, rfl⟩ := h.before_returnOk (s := setSeq (.fillData sent) s)
      obtain ⟨v, hv, hvw⟩ := tx_of_returnOk hfail
      obtain ⟨i, rfl⟩ := Nat.exists_eq_add_of_le hj
      have hi : i < s.cfg.fillChunk := by omega
      have hindex : (sent + i) % s.cfg.fillChunk = i := by
        rw [Nat.add_mod, haligned, Nat.zero_add, Nat.mod_mod, Nat.mod_eq_of_lt hi]
      have hbytes : fillChunkBytes color sent m = fillChunkBytes color sent i ++
          fillByte color (sent + i) :: fillChunkBytes color (sent + i + 1) (m - (i + 1)) := by
        have hm : m = i + (1 + (m - (i + 1))) := by omega
        conv => lhs; rw [hm, fillChunkBytes_append, fillChunkBytes_append]
        rfl
      rw [Nat.add_sub_cancel_left] at ht
      have hsend := sendBytes_failed (frame := .stream) (close := closeStream) (i := 0)
        (ys := fillChunkBytes color (sent + i + 1) (m - (i + 1))) ht hv
      rw [← hbytes, length_fillChunkBytes, Nat.zero_add] at hsend
      refine ⟨v, ?_, hvw⟩
      rw [hindex, fillLoop_round hlt hm, append_open (s := setSeq (.fillData sent) s) hopen, hsend]
    · have hwhole : m = s.cfg.fillChunk := by omega
      have hbytes : j - sent = m + (j - (sent + m)) := by omega
      rw [hbytes, fillChunkBytes_append] at h
      obtain ⟨w, hfirst, hrest⟩ := h.split
      obtain ⟨t, ht, rfl⟩ := hfirst.before_returnOk (s := setSeq (.fillData sent) s)
      obtain ⟨-, htopen⟩ := ht.keeps
      have hcfg : t.cfg = s.cfg := ht.cfg
      rw [fillLoop_chunk hopen hlt hm ht, ← hcfg]
      refine ih (hcfg.symm ▸ hchunk) (htopen.trans hopen) (by omega) (by omega) ?_ hrest
      rw [hcfg, ← hwhole, Nat.add_mod_right, hwhole, haligned]

end loop

/-! ## The stream of a fill (R148) -/

/-- `t` is `s` once FILL has opened the stream of the whole panel. -/
def FillOpened (rest : List TxAns) (s t : State) : Prop :=
  WindowOpened 0 0 (lastColumn s.cfg) (lastRow s.cfg) rest (setSeq .fillWin s) t

/-- How FILL reports stream byte `j`: by its place in its chunk (R106, 92 D30). -/
def fillFailedInfo (c : Config) (j : Nat) : StInfo :=
  ⟨some .fill, none, some .transfer, .transfer ⟨.stream, none, j % c.fillChunk⟩⟩

section opened
variable {color : Half} {rest : List TxAns} {s t u w : State}

/-- FILL after its window body, which returned (R148). -/
theorem fillBody_of_windowBody (hready : s.drvState = .ready)
    (h : windowBody 0 0 (lastColumn s.cfg) (lastRow s.cfg) (setSeq .fillWin s) = .ok () t) :
    fillBody color s = (fillLoop color (fillTotal t.cfg) (fillTotal t.cfg) 0 >>= fun _ =>
      update (setSeq .fillClose) >>= fun _ => update closeStream >>= fun _ => pure none) t := by
  have hlegal : requireReady s = .ok () s := if_pos (decide_eq_true hready)
  have hwindow : windowBody 0 0 (BitVec.ofNat 16 ((setSeq .fillWin s).cfg.panelW - 1))
    (BitVec.ofNat 16 ((setSeq .fillWin s).cfg.panelH - 1)) (setSeq .fillWin s) = .ok () t := h
  simp only [fillBody, op_bind, hlegal, update_apply, look_apply, hwindow]

/-- FILL where its window body raised. -/
theorem fillBody_of_windowBody_raise {e : Stop} (hready : s.drvState = .ready)
    (h : windowBody 0 0 (lastColumn s.cfg) (lastRow s.cfg) (setSeq .fillWin s) = .error e t) :
    fillBody color s = .error e t := by
  have hlegal : requireReady s = .ok () s := if_pos (decide_eq_true hready)
  have hwindow : windowBody 0 0 (BitVec.ofNat 16 ((setSeq .fillWin s).cfg.panelW - 1))
    (BitVec.ofNat 16 ((setSeq .fillWin s).cfg.panelH - 1)) (setSeq .fillWin s) = .error e t := h
  simp only [fillBody, op_bind, hlegal, update_apply, look_apply, hwindow]

theorem FillOpened.cfg (h : FillOpened rest s t) : t.cfg = s.cfg := by
  rw [WindowOpened.frame h]
  rfl

theorem FillOpened.ctl (h : FillOpened rest s t) :
    t.ctl = windowCtl s.cfg 0 0 (lastColumn s.cfg) (lastRow s.cfg) s.ctl := WindowOpened.ctl (s := setSeq .fillWin s) h

theorem FillOpened.context (h : FillOpened rest s t) :
    (returnOk none t).ctl.cmd = some (returnOk none t).cfg.cmdRamwr := by
  show t.ctl.cmd = some t.cfg.cmdRamwr
  rw [h.ctl, h.cfg]
  rfl

theorem FillOpened.fillChunk_pos (h : FillOpened rest s t) (hw : s.cfg.wf = true) : 0 < t.cfg.fillChunk := by
  obtain ⟨-, -, -, -, -, hchunk⟩ := wf_bounds hw
  rwa [h.cfg]

/-- The stream starts at the panel's first pixel, and its window is the panel (R148). -/
theorem FillOpened.panel (h : FillOpened rest s t) (hw : s.cfg.wf = true) :
    windowInPanel t ∧ t.ctl.xs = 0 ∧ t.ctl.ys = 0 ∧ windowWidth t.ctl = s.cfg.panelW ∧
      windowHeight t.ctl = s.cfg.panelH := by
  obtain ⟨hw1, hw2, hh1, hh2, -⟩ := wf_bounds hw
  have hx : (lastColumn s.cfg).toNat = s.cfg.panelW - 1 := toNat_last hw1 hw2
  have hy : (lastRow s.cfg).toNat = s.cfg.panelH - 1 := toNat_last hh1 hh2
  rw [windowInPanel, windowWidth, windowHeight, h.cfg, h.ctl]
  show (0 ≤ (lastColumn s.cfg).toNat ∧ (lastColumn s.cfg).toNat < _ ∧ 0 ≤ (lastRow s.cfg).toNat ∧
    (lastRow s.cfg).toNat < _) ∧ 0 = 0 ∧ 0 = 0 ∧ (lastColumn s.cfg).toNat - 0 + 1 = _ ∧ (lastRow s.cfg).toNat - 0 + 1 = _
  rw [hx, hy]
  exact ⟨⟨Nat.zero_le _, by omega, Nat.zero_le _, by omega⟩, rfl, rfl, Nat.sub_add_cancel hw1, Nat.sub_add_cancel hh1⟩

/-- FILL's stream sent whole, its end, and the return. -/
theorem exec_fill_ok (hready : s.drvState = .ready) (hw : s.cfg.wf = true)
    (hbody : windowBody 0 0 (lastColumn s.cfg) (lastRow s.cfg) (setSeq .fillWin s) = .ok () t)
    (h : FillOpened rest s t) (hsends : Sends (fillStream s.cfg color) (returnOk none t) u) :
    exec (.fill color) s = .next (closeStream u) := by
  rw [fillStream_eq, ← h.cfg] at hsends
  obtain ⟨v, hv, rfl⟩ := fillLoop_sends (sent := 0) (fuel := fillTotal t.cfg) (total := fillTotal t.cfg)
    (h.fillChunk_pos hw) h.isOpen (Nat.zero_add _).ge hsends
  show runOperation .fill none (fillBody color) s = _
  rw [runOperation, fillBody_of_windowBody hready hbody, op_bind, hv]
  show Host.Outcome.next (returnOk none (closeStream (setSeq .fillClose v))) = _
  rw [closeStream_congr (s := setSeq .fillClose v) (t := returnOk none v) rfl]

/-- FILL's stream up to a byte that fails, and the abort sequence. -/
theorem exec_fill_failed (hready : s.drvState = .ready) (hw : s.cfg.wf = true)
    (hbody : windowBody 0 0 (lastColumn s.cfg) (lastRow s.cfg) (setSeq .fillWin s) = .ok () t)
    (h : FillOpened rest s t) {j : Nat} (hj : j < fillTotal s.cfg)
    (hsends : Sends ((fillStream s.cfg color).take j) (returnOk none t) u)
    (hfail : tx (fillByte color j) u = .ok false w) :
    exec (.fill color) s = .next (takeAbort (fillFailedInfo s.cfg j) .transferError (closeStream w)) := by
  rw [fillStream_eq, take_fillChunkBytes color 0 hj.le] at hsends
  rw [← h.cfg] at hj
  obtain ⟨v, hv, rfl⟩ := fillLoop_fails (sent := 0) (fuel := fillTotal t.cfg) (total := fillTotal t.cfg)
    (h.fillChunk_pos hw) h.isOpen (Nat.zero_add _).ge (Nat.zero_le j) hj (Nat.zero_mod _) hsends hfail
  have hraise : fillBody color s = .error (transferStop ⟨.stream, none, j % s.cfg.fillChunk⟩) (closeStream v) := by
    rw [fillBody_of_windowBody hready hbody, op_bind, hv, h.cfg]
  rw [closeStream_returnOk, takeAbort_returnOk rfl]
  exact runOperation_transferStop (op := .fill) (src := none) hraise

/-- With 16-bit color, the first bytes of the fill's stream are placed in the panel's first cells (R126). -/
theorem FillOpened.placed (h : FillOpened rest s t) (hw : s.cfg.wf = true) (h16 : sixteenBit s = true) {n : Nat}
    (hn : n ≤ fillTotal s.cfg) :
    TakesPixels (returnOk none t) ∧ windowCount t.ctl = s.cfg.panelW * s.cfg.panelH ∧
      ∃ v, ctlDatas ((fillStream s.cfg color).take n) (returnOk none t) = .ok v ∧
        PixelsPlaced ((fillStream s.cfg color).take n) (returnOk none t) v := by
  obtain ⟨hwin, -, -, hwidth, hheight⟩ := h.panel hw
  have hctl := h.ctl
  have hsixteen : sixteenBit (returnOk none t) = true := by
    show sixteenBit t = true
    rw [sixteenBit, hctl, h.cfg]
    exact h16
  have htakes := takesPixels (s := returnOk none t) (h.cfg.symm ▸ hw) h.context hsixteen hwin
  have hcount : windowCount t.ctl = s.cfg.panelW * s.cfg.panelH := by rw [windowCount, hwidth, hheight]
  have hwp : (returnOk none t).ctl.wp = 0 := by rw [returnOk_ctl, hctl]; rfl
  have hhi : (returnOk none t).ctl.hi = none := by rw [returnOk_ctl, hctl]; rfl
  have hroom := ctlDatas_places ((fillStream s.cfg color).take n) htakes
  rw [hwp, hhi] at hroom
  refine ⟨htakes, hcount, hroom ?_⟩
  show 0 + ((fillStream s.cfg color).take n).length / 2 ≤ windowCount t.ctl
  rw [hcount, length_take_fillStream color hn]
  unfold fillTotal at hn
  omega

end opened

/-- The end of a stream that fits the window: a pixel that has come half may change its own cell alone (R55, 93 I2). -/
theorem PixelsPlaced.closed {bytes : List Byte} {s v : State} (h : PixelsPlaced bytes s v) (hs : TakesPixels s)
    (hwp : s.ctl.wp = 0) (hroom : (bytes.length + 1) / 2 ≤ windowCount s.ctl) (ti : List TxAns) (tr : List Event) {a : Nat}
    (ha : bytes.length % 2 = 1 → ¬ isPixelByte s.ctl (bytes.length / 2) a) :
    gramByte (closeStream (withPorts ti tr v)) a = gramByte v a := by
  obtain ⟨hframe, -, -⟩ := h
  rw [hwp, Nat.zero_add] at hframe
  have hctl : v.ctl = { s.ctl with
      wp := bytes.length / 2, hi := (bytes.drop (2 * (bytes.length / 2))).head? } := by rw [hframe]
  rcases Nat.mod_two_eq_zero_or_one bytes.length with heven | hodd
  · have hnone : v.ctl.hi = none := by
      rw [hctl, List.drop_eq_nil_of_le (by omega)]
      rfl
    exact sameGram_closeStream (s := withPorts ti tr v) (fun _ => hnone) a
  · have hd : streamDefined v = true := by
      rw [← hs.defined, hframe]
      rfl
    have hk : v.ctl.wp < windowCount v.ctl := by
      rw [hctl]
      show bytes.length / 2 < windowCount s.ctl
      omega
    refine gramByte_closeStream_other (s := withPorts ti tr v) hd hk ?_
    show ¬ isPixelByte v.ctl v.ctl.wp a
    rw [hctl]
    exact ha hodd

section painted
variable {color : Half} {rest : List TxAns} {s t v : State} {n : Nat}

theorem pixel_of_panel (h : FillOpened rest s t) (hw : s.cfg.wf = true) (k : Nat) :
    pixelX t.ctl k = k % s.cfg.panelW ∧ pixelY t.ctl k = k / s.cfg.panelW := by
  obtain ⟨-, hxs, hys, hwidth, -⟩ := h.panel hw
  rw [pixelX, pixelY, hxs, hys, hwidth]
  exact ⟨Nat.zero_add _, Nat.zero_add _⟩

theorem streamPixel_fillStream (c : Config) (color : Half) {n k : Nat} (hn : n ≤ fillTotal c) (hk : k < n / 2) :
    streamPixel ((fillStream c color).take n) k = color := by
  rw [fillStream_eq, take_fillChunkBytes _ _ hn]
  have hbyte : ∀ i, i < n → (fillChunkBytes color 0 n).getD i 0 = fillByte color i := fun i hi => by
    simp [fillChunkBytes, hi]
  rw [streamPixel, hbyte _ (by omega), hbyte _ (by omega), fillByte, if_pos (by omega), fillByte, if_neg (by omega),
    be16_hiByte_loByte]

/-- Once `n` bytes of a fill with 16-bit color have been taken and the stream is closed, the pixels that came whole hold the
color, and no cell after the pixel that came half has changed (R126, R149). -/
theorem FillOpened.painted (h : FillOpened rest s t) (hw : s.cfg.wf = true) (h16 : sixteenBit s = true)
    (hn : n ≤ fillTotal s.cfg) (hv : ctlDatas ((fillStream s.cfg color).take n) (returnOk none t) = .ok v)
    (ti : List TxAns) (tr : List Event) :
    (∀ k, k < n / 2 →
      gramPixel (closeStream (withPorts ti tr v)) (k % s.cfg.panelW) (k / s.cfg.panelW) = color) ∧
    SameButFirstCells t (closeStream (withPorts ti tr v)) s.cfg.panelW ((n + 1) / 2) := by
  obtain ⟨htakes, hcount, v', hv', hplaced⟩ := h.placed (color := color) hw h16 hn
  obtain rfl := Except.ok.inj (hv.symm.trans hv')
  have hlen := length_take_fillStream color hn
  have hwp : (returnOk none t).ctl.wp = 0 := by
    rw [returnOk_ctl, h.ctl]
    rfl
  have hroom : (n + 1) / 2 ≤ windowCount t.ctl := by
    rw [hcount]
    unfold fillTotal at hn
    omega
  have hclosed := fun a => hplaced.closed (a := a) htakes hwp (by rw [hlen]; exact hroom) ti tr
  rw [hlen] at hclosed
  have hx : (returnOk none t).ctl.xs.toNat ≤ (returnOk none t).ctl.xe.toNat := htakes.window.1
  constructor
  · intro k hk
    obtain ⟨hpx, hpy⟩ := pixel_of_panel h hw k
    have hcell := hplaced.placed k (by rwa [hlen])
    rw [streamPixel_fillStream _ _ hn hk, hwp, Nat.zero_add] at hcell
    rw [← hpx, ← hpy, ← hcell]
    refine gramPixel_congr (c := t.ctl) fun a ha => hclosed a fun _ hhalf => ?_
    have := isPixelByte_inj hx ha hhalf
    omega
  · intro a ha
    have houtside : ∀ k, k < (n + 1) / 2 → ¬ isPixelByte t.ctl k a := by
      intro k hk
      obtain ⟨hpx, hpy⟩ := pixel_of_panel h hw k
      rw [isPixelByte, hpx, hpy]
      exact not_or.2 (ha k hk)
    rw [hclosed a fun hodd => houtside _ (by omega), hplaced.others a fun k hk => ?_]
    · rfl
    · rw [hwp, Nat.zero_add]
      rw [hlen] at hk
      exact houtside k (by omega)

end painted

/-! ## FILL (R148, R149) -/

section ended
variable {color : Half} {rest : List TxAns} {s t v : State}

/-- The window body of FILL with its eleven transfers ok. -/
theorem fill_opens (hw : s.cfg.wf = true) (hb : s.busSel = s.streamOpen) (htx : TransfersOk s 11 rest) :
    ∃ t, windowBody 0 0 (lastColumn s.cfg) (lastRow s.cfg) (setSeq .fillWin s) = .ok () t ∧ FillOpened rest s t :=
  windowBody_ok (s := setSeq .fillWin s) hw hb htx

theorem FillOpened.dataMode (h : FillOpened rest s t) : (returnOk none t).dc = .data :=
  (WindowOpened.dataMode (s := setSeq .fillWin s) h :)

theorem FillOpened.txIn (h : FillOpened rest s t) : (returnOk none t).txIn = rest := by
  show t.txIn = rest
  rw [WindowOpened.frame h]

/-- The bytes of the fill are taken whatever the color format is. -/
theorem FillOpened.streamed (h : FillOpened rest s t) (hw : s.cfg.wf = true) (bs : List Byte) :
    ∃ v, ctlDatas bs (returnOk none t) = .ok v ∧ Streamed (returnOk none t) v := by
  obtain ⟨hwin, -⟩ := h.panel hw
  exact ctlDatas_streamed (s := returnOk none t) bs (h.cfg.symm ▸ hw) h.context (.inl hwin)

/-- What a fill leaves once its stream is closed: of TFTCORE the lines and the completion record, of the controller the
window of the panel, the count and GRAM. -/
theorem FillOpened.ended (h : FillOpened rest s t) (hv : Streamed (returnOk none t) v) (ti : List TxAns)
    (tr : List Event) : closeStream (withPorts ti tr v) = { s with
      busSel := false, streamOpen := false, dc := .data, seq := .idle, stCode := .ok, stInfo := .empty, result := none
      txIn := ti, trace := .pinCs s.cfg.csActive.opposite :: tr
      ctl := { windowCtl s.cfg 0 0 (lastColumn s.cfg) (lastRow s.cfg) s.ctl with wp := v.ctl.wp, hi := v.ctl.hi }
      gram := (closeStream (withPorts ti tr v)).gram, gramEpoch := (closeStream (withPorts ti tr v)).gramEpoch
      freeCtr := (closeStream (withPorts ti tr v)).freeCtr } := by
  have hctl := hv.ctl
  have hframe : withPorts ti tr v = { s with
      busSel := true, streamOpen := true, dc := .data, seq := .idle, stCode := .ok, stInfo := .empty, result := none
      txIn := ti, trace := tr
      ctl := { windowCtl s.cfg 0 0 (lastColumn s.cfg) (lastRow s.cfg) s.ctl with wp := v.ctl.wp, hi := v.ctl.hi }
      gram := v.gram, gramEpoch := v.gramEpoch, freeCtr := v.freeCtr } := by
    rw [withPorts, hv.only, hctl, returnOk_ctl, h.ctl, WindowOpened.frame h]
    rfl
  rw [closeStream_frame, releaseEvents]
  rw [hframe]
  rfl

end ended

/-- FILL with every transfer ok ends where its stream is closed on all of its bytes. -/
theorem fill_completes {color : Half} {s : State} {rest : List TxAns} (hready : s.drvState = .ready)
    (hw : s.cfg.wf = true) (hb : s.busSel = s.streamOpen) (htx : TransfersOk s (11 + fillTotal s.cfg) rest) :
    ∃ t v r, FillOpened r s t ∧ ctlDatas (fillStream s.cfg color) (returnOk none t) = .ok v ∧
      Streamed (returnOk none t) v ∧ exec (.fill color) s =
        .next (closeStream (withPorts rest ((sentEvents (fillStream s.cfg color)).reverse ++ t.trace) v)) := by
  rw [TransfersOk, List.replicate_add, List.append_assoc] at htx
  obtain ⟨t, hbody, hopened⟩ := fill_opens hw hb htx
  obtain ⟨v, hv, hstreamed⟩ := hopened.streamed hw (fillStream s.cfg color)
  have hlen : (fillStream s.cfg color).length = fillTotal s.cfg := by rw [fillStream_eq, length_fillChunkBytes]
  have hsends := sends_of_ctlDatas (rest := rest) hopened.dataMode (by rw [TransfersOk, hlen]; exact hopened.txIn) hv
  exact ⟨t, v, _, hopened, hv, hstreamed, exec_fill_ok hready hw hbody hopened hsends⟩

/-- Settles O43: the window's frames, the stream and its end, as the trace and the bus view have them. -/
theorem fillCompletes : Obligations.FillCompletes := by
  intro color s rest hready hw hb htx
  obtain ⟨t, v, r, hopened, -, hstreamed, hexec⟩ := fill_completes (color := color) hready hw hb htx
  have hended := hopened.ended hstreamed rest ((sentEvents (fillStream s.cfg color)).reverse ++ t.trace)
  generalize closeStream _ = e at hexec hended
  have hevents : e.events = s.events ++ (releaseEvents s ++
      (windowEvents s.cfg 0 0 (lastColumn s.cfg) (lastRow s.cfg) ++
        (sentEvents (fillStream s.cfg color) ++ [.pinCs s.cfg.csActive.opposite]))) := by
    have hopen : t.events = s.events ++ releaseEvents s ++ windowEvents s.cfg 0 0 (lastColumn s.cfg) (lastRow s.cfg) :=
      WindowOpened.events (s := setSeq .fillWin s) hopened
    have hall : e.events = t.events ++ sentEvents (fillStream s.cfg color) ++ [.pinCs s.cfg.csActive.opposite] := by
      rw [hended]
      simp [State.events]
    rw [hall, hopen]
    simp only [List.append_assoc]
  have hview := busView_of_events hevents (by rw [hended])
  rw [itemsOf_releaseEvents, itemsOf_windowEvents, itemsOf_sentEvents, itemsOf_release, itemsOf] at hview
  refine ⟨e, hexec, ?_, ?_, ?_, ?_⟩
  · rw [hended]
    exact ⟨rfl, rfl, rfl, rfl⟩
  · rw [hevents]
    simp only [List.append_assoc]
  · rw [hview]
    simp only [List.append_assoc]
    rfl
  · rw [hended]
    exact ⟨hready, ⟨rfl, rfl⟩, rfl, rfl, ⟨rfl, rfl, rfl, rfl⟩, ⟨rfl, rfl, rfl, rfl, rfl⟩, rfl, sameDecoder_refl s,
      ⟨rfl, rfl, rfl, rfl, rfl, rfl, rfl⟩, rfl⟩

/-- Settles O44: the stream of the fill has one whole pixel for each cell of the panel. -/
theorem fillPaintsPanel : Obligations.FillPaintsPanel := by
  intro color s rest hready hw hb h16 htx
  obtain ⟨t, v, r, hopened, hv, hstreamed, hexec⟩ := fill_completes (color := color) hready hw hb htx
  have hall : (fillStream s.cfg color).take (fillTotal s.cfg) = fillStream s.cfg color := by
    rw [fillStream_eq, take_fillChunkBytes _ _ le_rfl]
  obtain ⟨hpainted, -⟩ := hopened.painted (n := fillTotal s.cfg) hw h16 le_rfl (hall.symm ▸ hv) rest
    ((sentEvents (fillStream s.cfg color)).reverse ++ t.trace)
  refine ⟨_, hexec, by rw [hopened.ended hstreamed], fun x y hx hy => ?_⟩
  have hcell := hpainted (y * s.cfg.panelW + x) ?_
  · rwa [Nat.mul_add_mod', Nat.mod_eq_of_lt hx, Nat.mul_comm y, Nat.mul_add_div (by omega), Nat.div_eq_of_lt hx,
      Nat.add_zero] at hcell
  · calc y * s.cfg.panelW + x < (y + 1) * s.cfg.panelW := by rw [Nat.succ_mul]; omega
      _ ≤ s.cfg.panelH * s.cfg.panelW := Nat.mul_le_mul_right _ hy
      _ = fillTotal s.cfg / 2 := by rw [fillTotal, Nat.mul_div_cancel _ (by decide), Nat.mul_comm]

/-! ## FILL with any transfer failing (R109, R148) -/

theorem length_txEvents_sourceCloseEvents (s : State) : (txEvents (sourceCloseEvents s)).length = 0 := by
  unfold sourceCloseEvents
  split <;> rfl

theorem length_txEvents_windowEvents (c : Config) (x0 y0 x1 y1 : Half) :
    (txEvents (windowEvents c x0 y0 x1 y1)).length = 11 := rfl

/-- The trace up to stream byte `j`, which failed, `t` being the state the stream began in. -/
def fillFailedTrace (color : Half) (j : Nat) (t : State) : List Event :=
  .tx (fillByte color j) false :: ((sentEvents (fillChunkBytes color 0 j)).reverse ++ t.trace)

/-- FILL where stream byte `j` fails: the controller has taken the bytes before it, and that byte or not. -/
theorem fill_fails {color : Half} {s : State} {j : Nat} {a : TxAns} {rest : List TxAns} (hready : s.drvState = .ready)
    (hw : s.cfg.wf = true) (hb : s.busSel = s.streamOpen) (hj : j < fillTotal s.cfg)
    (htx : TransferFails s (11 + j) a rest) :
    ∃ t n v r, FillOpened r s t ∧ (n = j ∨ n = j + 1) ∧
      ctlDatas ((fillStream s.cfg color).take n) (returnOk none t) = .ok v ∧ Streamed (returnOk none t) v ∧
      exec (.fill color) s = .next (takeAbort (fillFailedInfo s.cfg j) .transferError
        (closeStream (withPorts rest (fillFailedTrace color j t) v))) := by
  obtain ⟨htxIn, ha⟩ := htx
  rw [List.replicate_add, List.append_assoc] at htxIn
  obtain ⟨t, hbody, hopened⟩ := fill_opens hw hb htxIn
  have hj' : j < (fillStream s.cfg color).length := by rwa [fillStream_eq, length_fillChunkBytes]
  have hbyte : (fillStream s.cfg color)[j] = fillByte color j := by simp [fillStream, fillByte]
  have htake : (fillStream s.cfg color).take j = fillChunkBytes color 0 j := by
    rw [fillStream_eq, take_fillChunkBytes _ _ hj.le]
  have hruns := fun n => hopened.streamed hw ((fillStream s.cfg color).take n)
  obtain ⟨u, n, v, hsends, hn, hv, hfail⟩ := tx_failed_after (s := returnOk none t) (rest := rest) hopened.dataMode hj'
    ⟨hopened.txIn, ha⟩ fun n => (hruns n).imp fun _ h => h.1
  have hstreamed : Streamed (returnOk none t) v := by
    obtain ⟨v', hv', h⟩ := hruns n
    exact Except.ok.inj (hv'.symm.trans hv) ▸ h
  rw [hbyte, htake] at hfail
  exact ⟨t, n, v, _, hopened, hn, hv, hstreamed, exec_fill_failed hready hw hbody hopened hj hsends hfail⟩

/-- The transfers of a fill up to stream byte `j`: those of the window, the bytes before it, and that byte. -/
theorem FillOpened.failedTransfers {color : Half} {j : Nat} {rest r : List TxAns} {s t v : State}
    (h : FillOpened r s t) (hv : Streamed (returnOk none t) v) :
    (txEvents (closeStream (withPorts rest (fillFailedTrace color j t) v)).events).length =
      (txEvents s.events).length + 11 + j + 1 := by
  have hopen : t.events = s.events ++ releaseEvents s ++ windowEvents s.cfg 0 0 (lastColumn s.cfg) (lastRow s.cfg) :=
    WindowOpened.events (s := setSeq .fillWin s) h
  have hall : (closeStream (withPorts rest (fillFailedTrace color j t) v)).events =
      t.events ++ sentEvents (fillChunkBytes color 0 j) ++ [.tx (fillByte color j) false] ++
        [.pinCs s.cfg.csActive.opposite] := by
    rw [h.ended hv]
    simp [State.events, fillFailedTrace]
  rw [hall, hopen]
  simp only [txEvents_append, List.length_append, length_txEvents_releaseEvents, length_txEvents_windowEvents,
    length_txEvents_sentEvents, length_fillChunkBytes]
  rfl

/-- FILL where a transfer of its window body fails (R143, R148). -/
theorem fill_windowFails {color : Half} {s : State} {j : Nat} (hj : j < (windowTransfers s.cfg).length) {a : TxAns}
    {rest : List TxAns} (hready : s.drvState = .ready) (hw : s.cfg.wf = true) (hb : s.busSel = s.streamOpen)
    (hsrc : s.decSrcOpen = false) (htx : TransferFails s j a rest) :
    ∃ t, exec (.fill color) s = .next t ∧
      EndedWith t .transferError ⟨some .fill, none, some .transfer, .transfer ((windowTransfers s.cfg)[j])⟩ ∧
      t.drvState = .ready ∧ WindowFailed j rest s t := by
  obtain ⟨t, hbody, hreached⟩ := windowBody_failed (x0 := 0) (y0 := 0) (x1 := lastColumn s.cfg) (y1 := lastRow s.cfg)
    (s := setSeq .fillWin s) hj hw hb htx
  have hexec := runOperation_transferStop (op := .fill) (src := none) (body := fillBody color)
    (fillBody_of_windowBody_raise hready hbody)
  obtain ⟨hdrv, -⟩ := (settles_exec (i := .fill color) rfl hexec).driver nofun
  obtain ⟨hbus, hrest, hcount, hdisplay, hgram, hdecoder, hinputs⟩ :=
    windowFailed_takeAbort (s := setSeq .fillWin s) hsrc hreached
  exact ⟨_, hexec, takeAbort_endedWith rfl, hdrv.trans hready, hbus, hrest, hcount, hdisplay, hgram, hdecoder, hinputs⟩

/-- Settles O45: a byte of the stream fails in its chunk, or the window body fails before it. -/
theorem fillTransferFailure : Obligations.FillTransferFailure := by
  constructor
  · intro color s j a rest hready hw hb hj htx
    obtain ⟨t, n, v, r, hopened, hn, hv, hstreamed, hexec⟩ := fill_fails (color := color) hready hw hb hj htx
    obtain ⟨hdrv, -⟩ := (settles_exec (i := .fill color) rfl hexec).driver nofun
    have hpainted := fun h16 => hopened.painted hw h16 (by omega) hv rest (fillFailedTrace color j t)
    have hended := hopened.ended hstreamed rest (fillFailedTrace color j t)
    have htransfers := hopened.failedTransfers (color := color) (j := j) (rest := rest) hstreamed
    have hclosed := closeStream_streamOpen (withPorts rest (fillFailedTrace color j t) v)
    generalize closeStream (withPorts rest (fillFailedTrace color j t) v) = e at *
    have hsame : ∀ x, gramByte (takeAbort (fillFailedInfo s.cfg j) .transferError e) x = gramByte e x := fun x => by
      rw [gramByte_takeAbort rfl, closeStream_closed e hclosed]
    refine ⟨_, hexec, takeAbort_endedWith rfl, hdrv.trans hready, takeAbort_busReleased rfl fun _ => by rw [hended], ?_,
      ?_, fun h16 k hk => ?_, fun hhalf h16 x hx => ?_⟩
    · rw [takeAbort_frame rfl, hended]
    · rw [takeAbort_events rfl, releaseEvents_closed hclosed, List.append_nil, txEvents_append, List.length_append,
        length_txEvents_sourceCloseEvents, htransfers]
    · obtain ⟨hcells, -⟩ := hpainted h16
      rw [gramPixel, hsame, hsame]
      exact hcells k (by omega)
    · obtain ⟨-, hothers⟩ := hpainted h16
      rw [hsame, hothers x fun k hk => hx k (by omega)]
      exact WindowOpened.sameGram (s := setSeq .fillWin s) hopened hhalf x
  · intro color s j hj a rest hready hw hb hsrc htx
    obtain ⟨t, hexec, hend, hdrv, hbus, hrest, hcount, hdisplay, hgram, hdecoder, hinputs⟩ :=
      fill_windowFails (color := color) hj hready hw hb hsrc htx
    exact ⟨t, hexec, hend, hdrv, hbus, hrest, hcount, hdisplay, hgram, hdecoder, hinputs⟩

end Sys2Proof.Proofs
end

section
/-! PROOFS. CONVERT (spec/43_pixel_codec.md R170, R172): the lanes of a packed color, the response, and how many channel
triples fall on one color. -/

namespace Sys2Proof.Proofs

open Sys2Proof.Machine

/-! ## The lanes of a packed color (R78, R172) -/

section lanes

variable (hi5 lo5 : BitVec 5) (mid6 : BitVec 6) (p : Half)

@[simp] theorem fieldHigh_pack565 : fieldHigh (pack565 hi5 mid6 lo5) = hi5 := by
  rw [fieldHigh, pack565, BitVec.extractLsb'_append_eq_of_le (by decide), BitVec.extractLsb'_append_eq_left]

@[simp] theorem fieldMid_pack565 : fieldMid (pack565 hi5 mid6 lo5) = mid6 := by
  rw [fieldMid, pack565, BitVec.extractLsb'_append_eq_of_le (by decide), BitVec.extractLsb'_append_eq_right]

@[simp] theorem fieldLow_pack565 : fieldLow (pack565 hi5 mid6 lo5) = lo5 :=
  BitVec.extractLsb'_append_eq_right

@[simp] theorem pack565_fields : pack565 (fieldHigh p) (fieldMid p) (fieldLow p) = p := by
  rw [pack565, fieldHigh, fieldMid, fieldLow, BitVec.extractLsb'_append_extractLsb'_eq_extractLsb' (by decide),
    BitVec.extractLsb'_append_extractLsb'_eq_extractLsb' (by decide)]
  exact BitVec.extractLsb'_eq_self

/-- A packed color is its three lanes. -/
theorem pack565_eq_iff : pack565 hi5 mid6 lo5 = p ↔ hi5 = fieldHigh p ∧ mid6 = fieldMid p ∧ lo5 = fieldLow p := by
  constructor
  · rintro rfl
    simp
  · rintro ⟨rfl, rfl, rfl⟩
    exact pack565_fields p

/-- The lanes do not overlap, so appending them is R170's shift and or. -/
theorem pack565_eq_or :
    pack565 hi5 mid6 lo5 = (hi5.setWidth 16 <<< 11) ||| (mid6.setWidth 16 <<< 5) ||| lo5.setWidth 16 := by
  refine BitVec.eq_of_getLsbD_eq fun i hi => ?_
  simp only [pack565, BitVec.getLsbD_or, BitVec.getLsbD_append, BitVec.getLsbD_shiftLeft, BitVec.getLsbD_setWidth]
  rcases Nat.lt_or_ge i 5 with hlow | hlow
  · simp [hlow, hi, show i < 11 by omega]
  rcases Nat.lt_or_ge i 11 with hmid | hmid
  · simp [hi, hlow.not_gt, hmid, show i - 5 < 6 by omega, show i - 5 < 16 by omega, lo5.getLsbD_of_ge i hlow]
  · simp [hi, hlow.not_gt, hmid.not_gt, show ¬i - 5 < 6 by omega, show i - 11 < 16 by omega,
      lo5.getLsbD_of_ge i hlow, mid6.getLsbD_of_ge (i - 5) (by omega), Nat.sub_sub]

theorem toNat_pack565 : (pack565 hi5 mid6 lo5).toNat = hi5.toNat * 2048 + mid6.toNat * 32 + lo5.toNat := by
  rw [pack565, BitVec.toNat_append, BitVec.toNat_append, ← Nat.shiftLeft_add_eq_or_of_lt lo5.isLt,
    ← Nat.shiftLeft_add_eq_or_of_lt mid6.isLt]
  omega

end lanes

/-! ## Truncation (R172) -/

theorem toNat_topFive (c : Byte) : (topFive c).toNat = c.toNat / 8 := by
  simp only [topFive, BitVec.extractLsb'_toNat, Nat.shiftRight_eq_div_pow]
  omega

theorem toNat_topSix (c : Byte) : (topSix c).toNat = c.toNat / 4 := by
  simp only [topSix, BitVec.extractLsb'_toNat, Nat.shiftRight_eq_div_pow]
  omega

/-- R170's `c >> 3`. -/
theorem setWidth_topFive (c : Byte) : (topFive c).setWidth 16 = (c >>> 3).setWidth 16 := by
  apply BitVec.eq_of_toNat_eq
  simp only [BitVec.toNat_setWidth, toNat_topFive, BitVec.toNat_ushiftRight, Nat.shiftRight_eq_div_pow]

/-- R170's `c >> 2`. -/
theorem setWidth_topSix (c : Byte) : (topSix c).setWidth 16 = (c >>> 2).setWidth 16 := by
  apply BitVec.eq_of_toNat_eq
  simp only [BitVec.toNat_setWidth, toNat_topSix, BitVec.toNat_ushiftRight, Nat.shiftRight_eq_div_pow]

/-! ## The conversion (R170) -/

section converted

variable (swap : Bool) (r g b : Byte)

/-- `SWAP_RB` says which channel is in the high lane and which in the low one, and nothing else. -/
theorem convertPixel_eq_pack565 :
    convertPixel swap r g b =
      pack565 (topFive (if swap then b else r)) (topSix g) (topFive (if swap then r else b)) := by
  cases swap <;> rfl

/-- R170's formula. -/
theorem convertPixel_eq_or :
    convertPixel swap r g b = (((if swap then b else r) >>> 3).setWidth 16 <<< 11) ||| ((g >>> 2).setWidth 16 <<< 5) |||
      ((if swap then r else b) >>> 3).setWidth 16 := by
  rw [convertPixel_eq_pack565, pack565_eq_or, setWidth_topFive, setWidth_topFive, setWidth_topSix]

/-- The packed color as a number (R172). -/
theorem toNat_convertPixel :
    (convertPixel swap r g b).toNat =
      (if swap then b else r).toNat / 8 * 2048 + g.toNat / 4 * 32 + (if swap then r else b).toNat / 8 := by
  rw [convertPixel_eq_pack565, toNat_pack565, toNat_topFive, toNat_topSix, toNat_topFive]

/-- A color is reached when each lane holds its channel's quotient. -/
theorem convertPixel_eq_iff (p : Half) :
    convertPixel swap r g b = p ↔
      (if swap then b else r).toNat / 8 = (fieldHigh p).toNat ∧ g.toNat / 4 = (fieldMid p).toNat ∧
        (if swap then r else b).toNat / 8 = (fieldLow p).toNat := by
  rw [convertPixel_eq_pack565, pack565_eq_iff, ← BitVec.toNat_inj, ← BitVec.toNat_inj, ← BitVec.toNat_inj,
    toNat_topFive, toNat_topSix, toNat_topFive]

/-- The same, said of the channels. -/
theorem convertPixel_eq_iff_channels (p : Half) :
    convertPixel swap r g b = p ↔
      r.toNat / 8 = (if swap then fieldLow p else fieldHigh p).toNat ∧ g.toNat / 4 = (fieldMid p).toNat ∧
        b.toNat / 8 = (if swap then fieldHigh p else fieldLow p).toNat := by
  rw [convertPixel_eq_iff]
  cases swap
  · exact Iff.rfl
  · exact and_comm.trans (and_assoc.trans and_left_comm)

theorem convertPixel_mono {r g b r' g' b' : Byte} (hr : r.toNat ≤ r'.toNat) (hg : g.toNat ≤ g'.toNat)
    (hb : b.toNat ≤ b'.toNat) : (convertPixel swap r g b).toNat ≤ (convertPixel swap r' g' b').toNat := by
  rw [toNat_convertPixel, toNat_convertPixel]
  have hhigh : (if swap then b else r).toNat ≤ (if swap then b' else r').toNat := by
    cases swap <;> assumption
  have hlow : (if swap then r else b).toNat ≤ (if swap then r' else b').toNat := by
    cases swap <;> assumption
  omega

end converted

/-! ## The statement on the operation (R170, R86) -/

/-- The wire form of a u16 in shifts (R86). -/
theorem be16Bytes_eq_shift (p : Half) : be16Bytes p = [(p >>> 8).setWidth 8, p.setWidth 8] := rfl

/-- Between operations a return writes the status and the result alone. -/
theorem returnOk_of_idle {s : State} (hidle : s.seq = .idle) (res : Option Half) :
    returnOk res s = { s with stCode := .ok, stInfo := StInfo.empty, result := res } := by
  rw [returnOk, ← hidle]

/-- Settles O26: the operation is one return with the converted color. -/
theorem convertResult : Obligations.ConvertResult := by
  rintro r g b p s hidle rfl
  rw [← convertPixel_eq_or]
  refine ⟨_, exec_convert r g b s, returnOk_of_idle hidle _, ?_⟩
  rw [← be16Bytes_eq_shift]
  rfl

/-- Settles O27, lane by lane. -/
theorem convertLaws : Obligations.ConvertLaws := by
  intro swap r g b
  obtain ⟨hhigh, hmid, hlow⟩ := (convertPixel_eq_iff swap r g b _).mp rfl
  exact ⟨hhigh.symm, hmid.symm, hlow.symm, rfl, fun _ _ _ => convertPixel_mono swap⟩

/-! ## How many triples reach a color (R172) -/

/-- The numbers with one quotient by `d` are `d` numbers in a row. -/
theorem card_filter_div_eq {n d k : Nat} (hd : 0 < d) (hk : k * d + d ≤ n) :
    ((Finset.univ : Finset (Fin n)).filter fun x => x.val / d = k).card = d := by
  have hrange : ((Finset.univ : Finset (Fin n)).filter fun x => x.val / d = k) =
      (Finset.Ico (k * d) (k * d + d)).attachFin fun x hx => (Finset.mem_Ico.mp hx).2.trans_le hk := by
    ext x
    simp only [Finset.mem_filter_univ, Finset.mem_attachFin, Finset.mem_Ico, Nat.div_eq_iff hd]
    omega
  rw [hrange, Finset.card_attachFin, Nat.card_Ico]
  omega

/-- The channels are chosen independently of each other: eight bytes have a quotient by 8, four have one by 4. -/
theorem card_filter_quotients (red blue : BitVec 5) (green : BitVec 6) :
    ((Finset.univ : Finset (Fin 256 × Fin 256 × Fin 256)).filter fun x =>
      x.1.val / 8 = red.toNat ∧ x.2.1.val / 4 = green.toNat ∧ x.2.2.val / 8 = blue.toNat).card = 256 := by
  rw [← Finset.univ_product_univ, ← Finset.univ_product_univ,
    Finset.filter_product (fun x : Fin 256 => x.val / 8 = red.toNat)
      (fun x : Fin 256 × Fin 256 => x.1.val / 4 = green.toNat ∧ x.2.val / 8 = blue.toNat),
    Finset.filter_product (fun x : Fin 256 => x.val / 4 = green.toNat) (fun x : Fin 256 => x.val / 8 = blue.toNat),
    Finset.card_product, Finset.card_product, card_filter_div_eq, card_filter_div_eq, card_filter_div_eq] <;> omega

/-- Settles O28: each channel's quotient is fixed by the lane it is packed into. -/
theorem convertImageSize : Obligations.ConvertImageSize := by
  intro swap p
  have hbyte (x : Fin 256) : (BitVec.ofNat 8 x.val).toNat = x.val := Nat.mod_eq_of_lt x.isLt
  simp only [convertPixel_eq_iff_channels, hbyte]
  exact card_filter_quotients _ _ _

end Sys2Proof.Proofs
end

section
/-! PROOFS. The image of DECODE_BMP as a pixel stream (spec/44_bitmap_decoder.md R189-R191, 41_controller_commands.md R126).

Between its stream bytes DECODE_BMP reads the source and fills its buffers, which the controller does not see: a data byte has
the same effect beside any state of TFTCORE (`ctlData_withController`). So all the bytes of the rows are followed as one stream
from the state the window body leaves, and that stream is paired up into the pixels of the image. -/

namespace Sys2Proof.Proofs

open Sys2Proof.Machine Sys2Proof.Safety

/-! ## The controller beside any state of TFTCORE (R37, R121) -/

/-- `s` with the controller of `v`: its configuration, its registers, GRAM and the free values. -/
def withController (v s : State) : State :=
  { s with cfg := v.cfg, ctl := v.ctl, gram := v.gram, gramEpoch := v.gramEpoch, freeCtr := v.freeCtr }

section beside
variable (b : Byte) (v s : State)

theorem freeStreamEffect_withController :
    freeStreamEffect (withController v s) = withController (freeStreamEffect v) s := by
  unfold freeStreamEffect
  rw [apply_ite (withController · s)]
  rfl

theorem ctlWindowByte_withController (done : Ctl → Ctl) :
    ctlWindowByte b done (withController v s) = withController (ctlWindowByte b done v) s := by
  unfold ctlWindowByte
  rw [apply_ite (withController · s)]
  rfl

theorem ctlColmodByte_withController :
    ctlColmodByte b (withController v s) = withController (ctlColmodByte b v) s := by
  unfold ctlColmodByte
  rw [apply_ite (withController · s)]
  rfl

theorem ctlMadctlByte_withController :
    ctlMadctlByte b (withController v s) = withController (ctlMadctlByte b v) s := by
  unfold ctlMadctlByte
  rw [apply_ite (withController · s)]
  rfl

theorem ctlUndefinedByte_withController :
    ctlUndefinedByte (withController v s) = withController (ctlUndefinedByte v) s := by
  rw [ctlUndefinedByte, freeStreamEffect_withController]
  rfl

theorem ctlPixel_withController (p : Half) :
    ctlPixel p (withController v s) = (ctlPixel p v).map (withController · s) := by
  unfold ctlPixel
  simp only [apply_ite (Except.map (withController · s))]
  rfl

theorem ctlStreamByte_withController :
    ctlStreamByte b (withController v s) = (ctlStreamByte b v).map (withController · s) := by
  have hctl : (withController v s).ctl = v.ctl := rfl
  unfold ctlStreamByte
  simp only [apply_ite (Except.map (withController · s)), ctlUndefinedByte_withController, ctlPixel_withController, hctl]
  cases v.ctl.hi <;> rfl

theorem ctlData_withController :
    ctlData b (withController v s) = (ctlData b v).map (withController · s) := by
  unfold ctlData
  simp only [apply_ite (Except.map (withController · s)), ctlWindowByte_withController, ctlStreamByte_withController,
    ctlColmodByte_withController, ctlMadctlByte_withController]
  rfl

theorem ctlDatas_withController (bs : List Byte) :
    ctlDatas bs (withController v s) = (ctlDatas bs v).map (withController · s) := by
  induction bs generalizing v with
  | nil => rfl
  | cons b bs ih =>
    rw [ctlDatas, ctlDatas, ctlData_withController]
    cases ctlData b v with
    | ok u => exact ih u
    | error f => rfl

theorem ctlHalfPixel_withController : ctlHalfPixel (withController v s) = withController (ctlHalfPixel v) s := by
  unfold ctlHalfPixel
  simp only [apply_ite (withController · s), freeStreamEffect_withController]
  rfl

/-- What the end of a stream leaves of GRAM depends on the controller, and on whether there was a stream. -/
theorem gramByte_closeStream_withController (ho : v.streamOpen = s.streamOpen) (a : Nat) :
    gramByte (closeStream (withController v s)) a = gramByte (closeStream v) a := by
  have hhalf : gramByte (ctlHalfPixel (releaseBus (withController v s))) a = gramByte (ctlHalfPixel (releaseBus v)) a :=
    (congrArg (gramByte · a) (ctlHalfPixel_withController (releaseBus v) (releaseBus (withController v s))) :)
  by_cases hs : s.streamOpen = true
  · rw [closeStream_opened (s := withController v s) hs, closeStream_opened (ho.trans hs)]
    exact hhalf
  · have hs := Bool.eq_false_iff.2 hs
    rw [closeStream_closed (withController v s) hs, closeStream_closed v (ho.trans hs)]
    rfl

end beside

theorem withController_of_onlyController {s t : State} (h : OnlyController s t) : withController t s = t := by
  rw [withController, onlyController_cfg h]
  exact h.symm

/-! ## A list of pixels as stream bytes (R79, R82, R189) -/

/-- The stream bytes of the pixels `f 0 … f (n - 1)`, each high byte first. -/
def pixelStream (f : Nat → Half) (n : Nat) : List Byte := (List.range n).flatMap fun k => be16Bytes (f k)

theorem pixelStream_succ (f : Nat → Half) (n : Nat) : pixelStream f (n + 1) = pixelStream f n ++ be16Bytes (f n) := by
  simp [pixelStream, List.range_succ]

theorem pixelStream_add (f : Nat → Half) (m n : Nat) :
    pixelStream f (m + n) = pixelStream f m ++ pixelStream (fun k => f (m + k)) n := by
  simp [pixelStream, List.range_add, List.flatMap_map]

theorem length_pixelStream (f : Nat → Half) (n : Nat) : (pixelStream f n).length = 2 * n := by
  induction n with
  | zero => rfl
  | succ n ih => rw [pixelStream_succ, List.length_append, ih]; rfl

/-- A stream of pixels is paired up into them again (R55, R79). -/
theorem streamPixel_pixelStream (f : Nat → Half) {n k : Nat} (hk : k < n) (bs : List Byte) :
    streamPixel (pixelStream f n ++ bs) k = f k := by
  obtain ⟨m, rfl⟩ := Nat.exists_eq_add_of_le hk
  have hbytes : pixelStream f (k + 1 + m) ++ bs =
      pixelStream f k ++ (be16Bytes (f k) ++ (pixelStream (fun i => f (k + 1 + i)) m ++ bs)) := by
    simp only [pixelStream_add f (k + 1) m, pixelStream_succ, List.append_assoc]
  have hskip : ∀ i (ys : List Byte), (pixelStream f k ++ ys).getD (2 * k + i) 0 = ys.getD i 0 := fun i ys => by
    have hlen := length_pixelStream f k
    rw [List.getD_append_right _ _ _ _ (by omega), hlen, Nat.add_sub_cancel_left]
  rw [hbytes, streamPixel, hskip 1, ← Nat.add_zero (2 * k), hskip 0]
  exact be16_hiByte_loByte (f k)

/-- The rows of an image are one list of pixels, row by row (R190, R191). -/
theorem rowsStream_eq_pixelStream (swapRb : Bool) (w n : Nat) (rows : Nat → List Byte) :
    rowsStream swapRb w n rows = pixelStream (fun k => rowPixel swapRb (rows (k / w)) (k % w)) (n * w) := by
  induction n with
  | zero => rw [Nat.zero_mul]; rfl
  | succ n ih =>
    have hrow : ∀ i ∈ List.range w, be16Bytes (rowPixel swapRb (rows n) i) =
        be16Bytes (rowPixel swapRb (rows ((n * w + i) / w)) ((n * w + i) % w)) := by
      intro i hi
      have hi := List.mem_range.1 hi
      rw [Nat.mul_add_mod', Nat.mod_eq_of_lt hi, Nat.mul_comm, Nat.mul_add_div (by omega), Nat.div_eq_of_lt hi, Nat.add_zero]
    rw [Nat.succ_mul, pixelStream_add, ← ih, rowsStream, List.range_succ, List.flatMap_append, rowsStream]
    congr 1
    simpa [rowStream, pixelStream] using List.flatMap_congr hrow

theorem rowsStream_succ (swapRb : Bool) (w n : Nat) (rows : Nat → List Byte) :
    rowsStream swapRb w (n + 1) rows = rowsStream swapRb w n rows ++ rowStream swapRb w (rows n) := by
  simp [rowsStream, List.range_succ]

theorem rowStream_succ (swapRb : Bool) (w : Nat) (row : List Byte) :
    rowStream swapRb (w + 1) row = rowStream swapRb w row ++ be16Bytes (rowPixel swapRb row w) :=
  pixelStream_succ (rowPixel swapRb row) w

theorem length_rowStream (swapRb : Bool) (w : Nat) (row : List Byte) : (rowStream swapRb w row).length = 2 * w :=
  length_pixelStream _ w

theorem length_rowsStream (swapRb : Bool) (w n : Nat) (rows : Nat → List Byte) :
    (rowsStream swapRb w n rows).length = 2 * (n * w) := by
  rw [rowsStream_eq_pixelStream, length_pixelStream]

/-- Pixel `i` of row `r` in the stream of the rows, whatever bytes follow it. -/
theorem streamPixel_rowsStream {swapRb : Bool} {w n i r : Nat} {rows : Nat → List Byte} (hi : i < w) (hr : r < n)
    (bs : List Byte) : streamPixel (rowsStream swapRb w n rows ++ bs) (r * w + i) = rowPixel swapRb (rows r) i := by
  have hk : r * w + i < n * w :=
    calc r * w + i < (r + 1) * w := by rw [Nat.succ_mul]; omega
      _ ≤ n * w := Nat.mul_le_mul_right w hr
  rw [rowsStream_eq_pixelStream, streamPixel_pixelStream _ hk, Nat.mul_add_mod', Nat.mod_eq_of_lt hi, Nat.mul_comm,
    Nat.mul_add_div (by omega), Nat.div_eq_of_lt hi, Nat.add_zero]

/-! ## A stream into a window at the origin (R126, R143) -/

/-- A stream is open at the first pixel of a window of `w` by `h` pixels at the origin, within the panel. -/
structure OriginStream (w h : Nat) (t : State) : Prop where
  wf : t.cfg.wf = true
  context : t.ctl.cmd = some t.cfg.cmdRamwr
  inPanel : windowInPanel t
  left : t.ctl.xs = 0
  top : t.ctl.ys = 0
  width : windowWidth t.ctl = w
  height : windowHeight t.ctl = h
  first : t.ctl.wp = 0
  whole : t.ctl.hi = none

section origin
variable {w h : Nat} {t v : State} {bs : List Byte}

theorem OriginStream.count (ht : OriginStream w h t) : windowCount t.ctl = w * h := by
  rw [windowCount, ht.width, ht.height]

theorem OriginStream.pixel (ht : OriginStream w h t) (k : Nat) : pixelX t.ctl k = k % w ∧ pixelY t.ctl k = k / w := by
  rw [pixelX, pixelY, ht.left, ht.top, ht.width]
  exact ⟨Nat.zero_add _, Nat.zero_add _⟩

theorem OriginStream.isPixelByte_iff (ht : OriginStream w h t) (k a : Nat) :
    isPixelByte t.ctl k a ↔ a = gramAddr (k % w) (k / w) ∨ a = gramAddr (k % w) (k / w) + 1 := by
  obtain ⟨hx, hy⟩ := ht.pixel k
  rw [isPixelByte, hx, hy]

/-- The controller takes any bytes of the stream (R126). -/
theorem OriginStream.streamed (ht : OriginStream w h t) (bs : List Byte) :
    ∃ v, ctlDatas bs t = .ok v ∧ Streamed t v :=
  ctlDatas_streamed bs ht.wf ht.context (.inl ht.inPanel)

/-- Whatever is streamed, no cell outside the window changes, its end included (R126, 90_conflicts.md C7). -/
theorem OriginStream.sameOutside (ht : OriginStream w h t) (hv : ctlDatas bs t = .ok v) :
    SameButFirstCells t (closeStream v) w (w * h) := by
  obtain ⟨v', hv', hstreamed⟩ := ht.streamed bs
  obtain rfl := Except.ok.inj (hv.symm.trans hv')
  intro a ha
  refine hstreamed.closed (windowFormed_of_windowInPanel ht.inPanel) v.txIn v.trace a fun k hk => ?_
  rw [ht.isPixelByte_iff]
  exact not_or.2 (ha k (ht.count ▸ hk))

/-- With 16-bit color the pixels that come whole stand in the window's first cells once the stream is closed, and no cell
after the pixel that comes half changes (R55, R79, R126). -/
theorem OriginStream.painted (ht : OriginStream w h t) (h16 : sixteenBit t = true)
    (hfits : (bs.length + 1) / 2 ≤ w * h) (hv : ctlDatas bs t = .ok v) :
    (∀ k, k < bs.length / 2 → gramPixel (closeStream v) (k % w) (k / w) = streamPixel bs k) ∧
      SameButFirstCells t (closeStream v) w ((bs.length + 1) / 2) := by
  have htakes := takesPixels ht.wf ht.context h16 ht.inPanel
  have hroom : (bs.length + 1) / 2 ≤ windowCount t.ctl := ht.count ▸ hfits
  obtain ⟨v', hv', hplaced⟩ := ctlDatas_places bs htakes (by
    rw [ht.first, ht.whole, Option.toList_none, List.nil_append]
    omega)
  obtain rfl := Except.ok.inj (hv.symm.trans hv')
  rw [ht.whole, Option.toList_none, List.nil_append] at hplaced
  have hclosed := fun a => hplaced.closed (a := a) htakes ht.first hroom v.txIn v.trace
  constructor
  · intro k hk
    obtain ⟨hx, hy⟩ := ht.pixel k
    have hcell := hplaced.placed k hk
    rw [ht.first, Nat.zero_add] at hcell
    rw [← hx, ← hy, ← hcell]
    refine gramPixel_congr fun a ha => hclosed a fun _ hhalf => ?_
    have := isPixelByte_inj htakes.window.1 ha hhalf
    omega
  · intro a ha
    have houtside : ∀ k, k < (bs.length + 1) / 2 → ¬ isPixelByte t.ctl k a := fun k hk => by
      rw [ht.isPixelByte_iff]
      exact not_or.2 (ha k hk)
    refine (hclosed a fun _ => houtside _ (by omega)).trans (hplaced.others a fun k hk => ?_)
    rw [ht.first, Nat.zero_add]
    exact houtside k (by omega)

end origin

/-- The window body of an extent within the panel, at the origin, opens such a stream (R143, R181). -/
theorem WindowOpened.origin {w h : Nat} {rest : List TxAns} {s t : State}
    (ht : WindowOpened 0 0 (BitVec.ofNat 16 (w - 1)) (BitVec.ofNat 16 (h - 1)) rest s t) (hw : s.cfg.wf = true)
    (hw0 : 1 ≤ w) (hwp : w ≤ s.cfg.panelW) (hh0 : 1 ≤ h) (hhp : h ≤ s.cfg.panelH) : OriginStream w h t := by
  obtain ⟨-, hpw, -, hph, -⟩ := wf_bounds hw
  have hx : (BitVec.ofNat 16 (w - 1)).toNat = w - 1 := toNat_last hw0 (hwp.trans hpw)
  have hy : (BitVec.ofNat 16 (h - 1)).toNat = h - 1 := toNat_last hh0 (hhp.trans hph)
  have hcfg : t.cfg = s.cfg := by rw [ht.frame]
  have hin : windowInPanel t := by
    rw [windowInPanel, ht.ctl, hcfg]
    show 0 ≤ _ ∧ (BitVec.ofNat 16 (w - 1)).toNat < _ ∧ 0 ≤ _ ∧ (BitVec.ofNat 16 (h - 1)).toNat < _
    omega
  refine ⟨hcfg ▸ hw, ?_, hin, ?_, ?_, ?_, ?_, ?_, ?_⟩
  all_goals rw [ht.ctl]
  · rw [hcfg]; rfl
  · rfl
  · rfl
  · show (BitVec.ofNat 16 (w - 1)).toNat - 0 + 1 = w
    omega
  · show (BitVec.ofNat 16 (h - 1)).toNat - 0 + 1 = h
    omega
  · rfl
  · rfl

end Sys2Proof.Proofs
end

section
/-! PROOFS. What DECODE_BMP does before its window (spec/44_bitmap_decoder.md R181-R187): the source opens or not, and the
header is read, checked and accepted or rejected in the order of 60_exceptions.md R213. -/

namespace Sys2Proof.Proofs

open Sys2Proof.Machine Sys2Proof.Safety

/-! ## What a buffer holds (R11, R30, R31) -/

/-- The running DECODE_BMP has written `bs` to the start of a buffer, and the buffer still holds them. -/
def Holds (b : Buffer) (bs : List Byte) (s : State) : Prop :=
  bs.length ≤ bufferWritten s b ∧ ∀ i, i < bs.length → memRead (bufferCells s b) i = bs[i]?

section holds
variable {b c : Buffer} {bs xs ys : List Byte} {s t : State}

theorem holds_nil (b : Buffer) (s : State) : Holds b [] s := ⟨Nat.zero_le _, nofun⟩

theorem Holds.readBufferByte (h : Holds b bs s) {i : Nat} (hi : i < bs.length) :
    readBufferByte b i s = .ok (byteAt bs i) s := by
  obtain ⟨hwritten, hcells⟩ := h
  refine readBufferByte_ok (hi.trans_le hwritten) ((hcells i hi).trans ?_)
  rw [byteAt, List.getD_eq_getElem _ _ hi, List.getElem?_eq_getElem hi]

theorem Holds.readBuffer (h : Holds b bs s) : readBuffer b 0 bs.length s = .ok bs s := by
  obtain ⟨hwritten, hcells⟩ := h
  refine readBuffer_ok ((Nat.zero_add _).trans_le hwritten) (memReadBytes_eq_ok _ _ _ fun i hi => ?_)
  rw [Nat.zero_add, hcells i hi, List.getElem?_eq_getElem hi]

/-- A write that adjoins the bytes of a buffer appends to them. -/
theorem Holds.write (h : Holds b xs s) : Holds b (xs ++ ys)
    (setBuffer b (memWriteBytes (bufferCells s b) xs.length ys) (writtenAfter (bufferWritten s b) xs.length ys.length)
      s) := by
  obtain ⟨hwritten, hcells⟩ := h
  rw [Holds, bufferWritten_setBuffer, bufferCells_setBuffer, List.length_append]
  refine ⟨writtenAfter_adjoin hwritten, fun i hi => ?_⟩
  by_cases hix : i < xs.length
  · rw [memRead_writeBytes_outside _ _ _ _ (.inl hix), hcells i hix, List.getElem?_append_left hix]
  · obtain ⟨k, rfl⟩ := Nat.exists_eq_add_of_le (Nat.le_of_not_lt hix)
    have hk : k < ys.length := by omega
    rw [memRead_writeBytes_inside _ _ _ _ hk, List.getElem?_append_right (Nat.le_add_right _ _), Nat.add_sub_cancel_left,
      List.getElem?_eq_getElem hk]

theorem Holds.other {m : List Host.Cell} {n : Nat} (h : Holds b bs s) (hbc : b ≠ c) : Holds b bs (setBuffer c m n s) := by
  rwa [Holds, bufferWritten_setBuffer_other hbc, bufferCells_setBuffer_other hbc]

/-- A write within a buffer that adjoins what it holds (R50). -/
theorem Holds.writeBuffer (h : Holds b xs s) (hfit : xs.length + ys.length ≤ bufferSize s.cfg b) :
    ∃ m n, writeBuffer b xs.length ys s = .ok () (setBuffer b m n s) ∧ Holds b (xs ++ ys) (setBuffer b m n s) :=
  ⟨_, _, writeBuffer_ok hfit, h.write⟩

end holds

theorem byteAt_take {bs : List Byte} {n i : Nat} (hi : i < n) : byteAt (bs.take n) i = byteAt bs i := by
  rw [byteAt, byteAt, List.getD_eq_getElem?_getD, List.getElem?_take_of_lt hi, List.getD_eq_getElem?_getD]

/-! ## The opening of the source (R181) -/

/-- DECODE_BMP once its source is open. -/
def sourceOpened (h : Byte) (opens : List Bool) (s : State) : State :=
  startDecode { s with seq := .bmpOpen, openIn := opens, trace := .srcOpen h true :: s.trace, decSrcOpen := true }

theorem openSource_ok {h : Byte} {opens : List Bool} {s : State} (hopen : s.openIn = true :: opens) :
    openSource h s = .ok () (sourceOpened h opens s) := by
  simp only [openSource, op_bind, update_apply, srcOpen_cons (s := setSeq .bmpOpen s) hopen]
  rfl

theorem openSource_missing {h : Byte} {opens : List Bool} {s : State} (hopen : s.openIn = false :: opens) :
    openSource h s = .error (.raise .resourceNotFoundError none .none)
      { s with seq := .bmpOpen, openIn := opens, trace := .srcOpen h false :: s.trace } := by
  simp only [openSource, op_bind, update_apply, srcOpen_cons (s := setSeq .bmpOpen s) hopen]
  rfl

/-! ## The header's fields (R182-R187) -/

/-- The header is in `HDR`, which reaches its fields (R30, R182). -/
def HeaderHeld (hdr : List Byte) (s : State) : Prop :=
  30 ≤ s.cfg.headerSize ∧ s.cfg.headerSize ≤ hdr.length ∧ Holds .hdr (hdr.take s.cfg.headerSize) s

/-- The registers that EXTRACT_FIELDS writes (R183). -/
def fieldsExtracted (hdr : List Byte) (s : State) : State :=
  { s with
    decSrcW := headerWidth hdr, decSrcH := headerHeight hdr, decBpp := headerDepth hdr
    decWritten := .bpp :: .srcH :: .srcW :: s.decWritten }

/-- The registers that CLIP writes after them (R186). -/
def imageClipped (hdr : List Byte) (s : State) : State :=
  { fieldsExtracted hdr s with
    decW := imageWidth s.cfg hdr, decH := imageHeight s.cfg hdr
    decWritten := .h :: .w :: (fieldsExtracted hdr s).decWritten }

/-- The size of a stored row after them (R181). -/
def rowSizeSet (hdr : List Byte) (s : State) : State :=
  { imageClipped hdr s with
    decRowSize := imageRowSize hdr, decWritten := .rowSize :: (imageClipped hdr s).decWritten }

section fields
variable {hdr : List Byte} {s : State}

section held
variable (h : HeaderHeld hdr s)
include h

theorem HeaderHeld.byte {i : Nat} (hi : i < 30) : readBufferByte .hdr i s = .ok (byteAt hdr i) s := by
  obtain ⟨hsize, hlen, hheld⟩ := h
  rw [hheld.readBufferByte (i := i) (by rw [List.length_take]; omega), byteAt_take (by omega)]

theorem HeaderHeld.headerWord {i : Nat} (hi : i + 3 < 30) : headerWord i s =
    .ok (le32 (byteAt hdr i) (byteAt hdr (i + 1)) (byteAt hdr (i + 2)) (byteAt hdr (i + 3))) s := by
  simp only [Machine.headerWord, op_bind, op_pure, h.byte (i := i) (by omega), h.byte (i := i + 1) (by omega),
    h.byte (i := i + 2) (by omega), h.byte hi]

theorem HeaderHeld.headerHalf {i : Nat} (hi : i + 1 < 30) :
    headerHalf i s = .ok (le16 (byteAt hdr i) (byteAt hdr (i + 1))) s := by
  simp only [Machine.headerHalf, op_bind, op_pure, h.byte (i := i) (by omega), h.byte hi]

theorem HeaderHeld.checkSignature : checkSignature s =
    if byteAt hdr 0 ≠ 0x42 ∨ byteAt hdr 1 ≠ 0x4D then
      .error (.raise .formatError (some .badSignature) (.signature (byteAt hdr 0) (byteAt hdr 1))) s
    else .ok () s := by
  simp only [Machine.checkSignature, op_bind, h.byte (i := 0) (by omega), h.byte (i := 1) (by omega)]
  split <;> rfl

/-- Each register is written between two reads of `HDR`, which stays. -/
theorem HeaderHeld.extractFields : extractFields s = .ok () (fieldsExtracted hdr s) := by
  have hwidth : Machine.headerWord 18 s = .ok (headerWidth hdr) s := h.headerWord (by omega)
  obtain ⟨t, ht⟩ : ∃ t, t = writeDec .srcW (fun u => { u with decSrcW := headerWidth hdr }) s := ⟨_, rfl⟩
  have hheld : HeaderHeld hdr t := ht ▸ h
  have hheight : Machine.headerWord 22 t = .ok (headerHeight hdr) t := hheld.headerWord (by omega)
  obtain ⟨u, hu⟩ : ∃ u, u = writeDec .srcH (fun v => { v with decSrcH := headerHeight hdr }) t := ⟨_, rfl⟩
  have hheld : HeaderHeld hdr u := hu ▸ hheld
  have hdepth : Machine.headerHalf 28 u = .ok (headerDepth hdr) u := hheld.headerHalf (by omega)
  simp only [Machine.extractFields, op_bind, update_apply, hwidth, ← ht, hheight, ← hu, hdepth]
  rw [hu, ht]
  rfl

end held

theorem checkDepth_fieldsExtracted : checkDepth (fieldsExtracted hdr s) =
    if headerDepth hdr ≠ 24 then
      .error (.raise .unsupportedFormatError (some .bitDepth) (.depth (headerDepth hdr))) (fieldsExtracted hdr s)
    else .ok () (fieldsExtracted hdr s) := by
  have hread : ∀ {α} (f : State → α), readDec .bpp f (fieldsExtracted hdr s) = .ok (f (fieldsExtracted hdr s)) _ :=
    fun _ => readDec_ok (by simp [fieldsExtracted])
  simp only [checkDepth, op_bind, hread]
  show (if headerDepth hdr ≠ 24 then _ else _ : Op Unit) _ = _
  split <;> rfl

theorem clipImage_fieldsExtracted : clipImage (fieldsExtracted hdr s) = .ok () (imageClipped hdr s) := by
  have hread : ∀ r ∈ [DecReg.srcW, .srcH], ∀ {α} (f : State → α),
      readDec r f (fieldsExtracted hdr s) = .ok (f (fieldsExtracted hdr s)) _ :=
    fun r hr _ _ => readDec_ok (by simp only [fieldsExtracted]; grind)
  simp only [clipImage, op_bind, hread .srcW (by simp), hread .srcH (by simp), update_apply]
  rfl

theorem checkSize_imageClipped : checkSize (imageClipped hdr s) =
    if imageWidth s.cfg hdr = 0 ∨ imageHeight s.cfg hdr = 0 then
      .error (.raise .formatError (some .zeroSize) (.size (headerWidth hdr) (headerHeight hdr))) (imageClipped hdr s)
    else .ok () (imageClipped hdr s) := by
  have hread : ∀ r ∈ [DecReg.srcW, .srcH, .w, .h], ∀ {α} (f : State → α),
      readDec r f (imageClipped hdr s) = .ok (f (imageClipped hdr s)) _ :=
    fun r hr _ _ => readDec_ok (by simp only [imageClipped, fieldsExtracted]; grind)
  simp only [checkSize, op_bind, hread .srcW (by simp), hread .srcH (by simp), hread .w (by simp), hread .h (by simp)]
  show (if imageWidth s.cfg hdr = 0 ∨ imageHeight s.cfg hdr = 0 then _ else _ : Op Unit) _ = _
  split <;> rfl

theorem setRowSize_imageClipped : setRowSize (imageClipped hdr s) = .ok () (rowSizeSet hdr s) := by
  have hread : ∀ {α} (f : State → α), readDec .srcW f (imageClipped hdr s) = .ok (f (imageClipped hdr s)) _ :=
    fun _ => readDec_ok (by simp [imageClipped, fieldsExtracted])
  simp only [setRowSize, op_bind, hread, update_apply]
  rfl

end fields

/-! ## The checks in their order (R181, R213) -/

/-- DECODE_BMP once the header's read has been answered, whatever it has done with the answer (R182). -/
def headerAnswered (ans : SrcAns) (reads : List SrcAns) (s : State) : State :=
  { s with
    seq := .bmpHdr, readIn := reads
    trace := .srcRead 0 s.cfg.headerSize (readAnswer s.cfg.headerSize ans) :: s.trace }

/-- DECODE_BMP once an answer that is long enough stands in `HDR` (R30, R182). -/
def headerTaken (hdr : List Byte) (reads : List SrcAns) (s : State) : State :=
  { headerAnswered (.data hdr) reads s with
    seq := .bmpCheck, hdr := memWriteBytes s.hdr 0 (hdr.take s.cfg.headerSize)
    hdrWritten := writtenAfter s.hdrWritten 0 (hdr.take s.cfg.headerSize).length }

section checks
variable {hdr : List Byte} {ans : SrcAns} {reads : List SrcAns} {s : State}

theorem headerHeld_headerTaken (hsize : 30 ≤ s.cfg.headerSize) (hlen : s.cfg.headerSize ≤ hdr.length) :
    HeaderHeld hdr (headerTaken hdr reads s) :=
  ⟨hsize, hlen, (holds_nil .hdr (headerAnswered (.data hdr) reads s)).write⟩

theorem srcRead_header (hread : s.readIn = ans :: reads) : srcRead 0 s.cfg.headerSize (setSeq .bmpHdr s) =
    .ok (readAnswer s.cfg.headerSize ans) (headerAnswered ans reads s) :=
  srcRead_cons (s := setSeq .bmpHdr s) hread

/-- A failed read of the header, or an answer too short, ends the checks (R182). -/
theorem checkImage_unread (hread : s.readIn = ans :: reads)
    (hans : ∀ bs, ans = .data bs → bs.length < s.cfg.headerSize) :
    ∃ code reason detail, headerVerdict s.cfg ans = some (code, reason, detail) ∧
      checkImage s = .error (.raise code reason detail) (headerAnswered ans reads s) := by
  have hcfg : (setSeq .bmpHdr s).cfg = s.cfg := rfl
  have hcheck := srcRead_header hread
  cases ans with
  | fail =>
    refine ⟨_, _, _, rfl, ?_⟩
    simp only [checkImage, readHeader, op_bind, update_apply, look_apply, hcfg, hcheck, readAnswer, raise_apply]
  | data bs =>
    have hshort := hans bs rfl
    refine ⟨_, _, _, if_pos hshort, ?_⟩
    simp only [checkImage, readHeader, op_bind, update_apply, look_apply, hcfg, hcheck, readAnswer,
      if_neg (Nat.not_le.2 hshort), raise_apply]

/-- A header that came whole goes through the checks one after another, each in the state the steps before it left. -/
theorem checkImage_read (hsize : 30 ≤ s.cfg.headerSize) (hlen : s.cfg.headerSize ≤ hdr.length)
    (hread : s.readIn = .data hdr :: reads) : checkImage s =
      if byteAt hdr 0 ≠ 0x42 ∨ byteAt hdr 1 ≠ 0x4D then
        .error (.raise .formatError (some .badSignature) (.signature (byteAt hdr 0) (byteAt hdr 1)))
          (headerTaken hdr reads s)
      else if headerDepth hdr ≠ 24 then
        .error (.raise .unsupportedFormatError (some .bitDepth) (.depth (headerDepth hdr)))
          (fieldsExtracted hdr (headerTaken hdr reads s))
      else if imageWidth s.cfg hdr = 0 ∨ imageHeight s.cfg hdr = 0 then
        .error (.raise .formatError (some .zeroSize) (.size (headerWidth hdr) (headerHeight hdr)))
          (imageClipped hdr (headerTaken hdr reads s))
      else .ok () (rowSizeSet hdr (headerTaken hdr reads s)) := by
  have hcfg : (setSeq .bmpHdr s).cfg = s.cfg := rfl
  have hheld := headerHeld_headerTaken (reads := reads) hsize hlen
  have hwrite : writeBuffer .hdr 0 (hdr.take s.cfg.headerSize) (headerAnswered (.data hdr) reads s) = .ok () _ :=
    writeBuffer_ok (by rw [Nat.zero_add, List.length_take]; exact Nat.min_le_left _ _)
  have hseq : setSeq .bmpCheck (setBuffer .hdr (memWriteBytes (bufferCells (headerAnswered (.data hdr) reads s) .hdr) 0
      (hdr.take s.cfg.headerSize)) (writtenAfter (bufferWritten (headerAnswered (.data hdr) reads s) .hdr) 0
      (hdr.take s.cfg.headerSize).length) (headerAnswered (.data hdr) reads s)) = headerTaken hdr reads s := rfl
  simp only [checkImage, readHeader, op_bind, update_apply, look_apply, hcfg, srcRead_header hread, readAnswer, if_pos hlen,
    hwrite, hseq, hheld.checkSignature]
  by_cases hsig : byteAt hdr 0 ≠ 0x42 ∨ byteAt hdr 1 ≠ 0x4D
  · simp only [if_pos hsig]
  simp only [if_neg hsig, hheld.extractFields, checkDepth_fieldsExtracted]
  by_cases hdepth : headerDepth hdr ≠ 24
  · simp only [if_pos hdepth]
  have hcfg : (headerTaken hdr reads s).cfg = s.cfg := rfl
  simp only [if_neg hdepth, clipImage_fieldsExtracted, checkSize_imageClipped, hcfg]
  by_cases hzero : imageWidth s.cfg hdr = 0 ∨ imageHeight s.cfg hdr = 0
  · simp only [if_pos hzero]
  · simp only [if_neg hzero, setRowSize_imageClipped]

/-- A header that passes every check leaves the decoder's registers as their rules give them (R183-R187). -/
theorem checkImage_accepted (hw : s.cfg.wf = true) (hdr_ok : headerAccepted s.cfg hdr)
    (hread : s.readIn = .data hdr :: reads) : checkImage s = .ok () (rowSizeSet hdr (headerTaken hdr reads s)) := by
  obtain ⟨hpw, -, hph, -, hsize, -⟩ := wf_bounds hw
  obtain ⟨hlen, hb0, hb1, hdepth, hwidth, hheight⟩ := hdr_ok
  rw [checkImage_read hsize hlen hread, if_neg (by simp [hb0, hb1]), if_neg (by simp [hdepth]), if_neg]
  unfold imageWidth imageHeight
  omega

/-- `t` is `s` after the header's read and some of the checks: of TFTCORE only `HDR` and the registers of the checks have
changed. -/
def HeaderSide (ans : SrcAns) (reads : List SrcAns) (s t : State) : Prop :=
  t = { headerAnswered ans reads s with
    seq := t.seq, decSrcW := t.decSrcW, decSrcH := t.decSrcH, decBpp := t.decBpp, decW := t.decW, decH := t.decH
    decRowSize := t.decRowSize, decWritten := t.decWritten, hdr := t.hdr, hdrWritten := t.hdrWritten }

/-- The verdict on a header that came whole, with the sizes as CLIP leaves them: a panel has a pixel (R6, R186). -/
theorem headerVerdict_read {c : Config} (hw : c.wf = true) (hlen : c.headerSize ≤ hdr.length) :
    headerVerdict c (.data hdr) =
      if byteAt hdr 0 ≠ 0x42 ∨ byteAt hdr 1 ≠ 0x4D then
        some (.formatError, some .badSignature, .signature (byteAt hdr 0) (byteAt hdr 1))
      else if headerDepth hdr ≠ 24 then some (.unsupportedFormatError, some .bitDepth, .depth (headerDepth hdr))
      else if imageWidth c hdr = 0 ∨ imageHeight c hdr = 0 then
        some (.formatError, some .zeroSize, .size (headerWidth hdr) (headerHeight hdr))
      else none := by
  obtain ⟨hpw, -, hph, -⟩ := wf_bounds hw
  have hzero : (imageWidth c hdr = 0 ∨ imageHeight c hdr = 0) ↔
      ((headerWidth hdr).toNat = 0 ∨ (headerHeight hdr).toNat = 0) := by
    unfold imageWidth imageHeight
    omega
  simp only [headerVerdict, if_neg (Nat.not_lt.2 hlen), hzero]

/-- The checks raise the verdict on a header that they reject. `HDR` holds the header of an answer that is long enough; any other
answer leaves `HDR` and the registers as they were (R30, R182). -/
theorem checkImage_rejected {code : StCode} {reason : Option Reason} {detail : Detail} (hw : s.cfg.wf = true)
    (hread : s.readIn = ans :: reads) (hverdict : headerVerdict s.cfg ans = some (code, reason, detail)) :
    ∃ t, checkImage s = .error (.raise code reason detail) t ∧ HeaderSide ans reads s t ∧
      (∀ bs, ans = .data bs → s.cfg.headerSize ≤ bs.length → HeaderHeld bs t) ∧
      ((∀ bs, ans = .data bs → bs.length < s.cfg.headerSize) → t.hdr = s.hdr ∧ SameDecValues s t) := by
  obtain ⟨-, -, -, -, hsize, -⟩ := wf_bounds hw
  by_cases hshort : ∀ bs, ans = .data bs → bs.length < s.cfg.headerSize
  · obtain ⟨code', reason', detail', hverdict', hcheck⟩ := checkImage_unread hread hshort
    cases hverdict.symm.trans hverdict'
    exact ⟨_, hcheck, rfl, fun bs hbs hlen => absurd (hshort bs hbs) (Nat.not_lt.2 hlen),
      fun _ => ⟨rfl, rfl, rfl, rfl, rfl, rfl, rfl, rfl⟩⟩
  · obtain ⟨hdr, rfl, hlen⟩ : ∃ hdr, ans = .data hdr ∧ s.cfg.headerSize ≤ hdr.length := by
      simpa only [not_forall, exists_prop, Nat.not_lt] using hshort
    have hheld := headerHeld_headerTaken (reads := reads) hsize hlen
    have hcheck := checkImage_read hsize hlen hread
    have hsame : ∀ {t}, HeaderHeld hdr t → ∀ bs, SrcAns.data hdr = .data bs → s.cfg.headerSize ≤ bs.length →
        HeaderHeld bs t := fun ht _ hbs _ => SrcAns.data.inj hbs ▸ ht
    rw [headerVerdict_read hw hlen] at hverdict
    by_cases hsig : byteAt hdr 0 ≠ 0x42 ∨ byteAt hdr 1 ≠ 0x4D
    · rw [if_pos hsig] at hcheck hverdict
      cases hverdict
      exact ⟨_, hcheck, rfl, hsame hheld, fun h => absurd h hshort⟩
    rw [if_neg hsig] at hcheck hverdict
    by_cases hdepth : headerDepth hdr ≠ 24
    · rw [if_pos hdepth] at hcheck hverdict
      cases hverdict
      exact ⟨_, hcheck, rfl, hsame hheld, fun h => absurd h hshort⟩
    rw [if_neg hdepth] at hcheck hverdict
    by_cases hzero : imageWidth s.cfg hdr = 0 ∨ imageHeight s.cfg hdr = 0
    · rw [if_pos hzero] at hcheck hverdict
      cases hverdict
      exact ⟨_, hcheck, rfl, hsame hheld, fun h => absurd h hshort⟩
    · rw [if_neg hzero] at hverdict
      cases hverdict

end checks

/-! ## DECODE_BMP of a source it does not draw (R181, R213, R216) -/

section body
variable {h : Byte} {opens : List Bool} {s t : State}

/-- DECODE_BMP with its source open runs the checks (R181). -/
theorem decodeBmpBody_opened (hready : s.drvState = .ready) (hopen : s.openIn = true :: opens) :
    decodeBmpBody h s = (checkImage >>= fun _ => drawImage >>= fun _ => update (setSeq .bmpDone) >>= fun _ =>
      update closeStream >>= fun _ => update closeSource >>= fun _ => pure none) (sourceOpened h opens s) := by
  have hlegal : requireReady s = .ok () s := if_pos (decide_eq_true hready)
  rw [decodeBmpBody, op_bind, hlegal]
  show (openSource h >>= _) s = _
  rw [op_bind, openSource_ok hopen]

theorem decodeBmpBody_rejected {e : Stop} (hready : s.drvState = .ready) (hopen : s.openIn = true :: opens)
    (hcheck : checkImage (sourceOpened h opens s) = .error e t) : decodeBmpBody h s = .error e t := by
  rw [decodeBmpBody_opened hready hopen, op_bind, hcheck]

end body

/-- Settles O46: the opening raises before anything but the answer is recorded, and the abort sequence releases the stream. -/
theorem decodeSourceMissing : Obligations.DecodeSourceMissing := by
  intro h s opens hready hsrc hb hopen
  have hlegal : requireReady s = .ok () s := if_pos (decide_eq_true hready)
  have hbody : decodeBmpBody h s = .error (.raise .resourceNotFoundError none .none)
      { s with seq := .bmpOpen, openIn := opens, trace := .srcOpen h false :: s.trace } := by
    simp only [decodeBmpBody, op_bind, hlegal, openSource_missing hopen]
  obtain ⟨u, hu⟩ : ∃ u : State,
      u = { s with seq := .bmpOpen, openIn := opens, trace := .srcOpen h false :: s.trace } := ⟨_, rfl⟩
  rw [← hu] at hbody
  have hclosed : u.decSrcOpen = false := hu ▸ hsrc
  have hevents : u.events = s.events ++ [.srcOpen h false] := by simp [hu, State.events]
  have hrelease : releaseEvents u = releaseEvents s := hu ▸ rfl
  have hdecoder : SameDecoder s u := hu ▸ sameDecoder_refl s
  have hgram : NoHalfPixel u → SameGram u (takeAbort ⟨some .decodeBmp, some h, none, .none⟩ .resourceNotFoundError u) :=
    fun hhalf a => (gramByte_takeAbort rfl a).trans (sameGram_closeStream hhalf a)
  refine ⟨_, runOperation_raise (op := .decodeBmp) (src := some h) hbody, takeAbort_endedWith rfl, ?_, ?_,
    takeAbort_busReleased rfl ?_, ?_, ?_, sameDecoder_trans hdecoder (takeAbort_sameDecoder rfl hclosed), ?_⟩
  · rw [takeAbort_events rfl, sourceCloseEvents_closed hclosed, hevents, hrelease, List.append_nil]
  · rw [takeAbort_frame rfl, hu]
    exact hready
  · rw [hu]
    exact hb.trans
  · rw [takeAbort_frame rfl, hu]
  · rw [hu] at hgram ⊢
    exact hgram
  · rw [takeAbort_frame rfl, hu]
    exact ⟨rfl, rfl, rfl⟩

/-- Settles O47: the checks raise the verdict, and the abort sequence releases the stream and closes the source. -/
theorem decodeHeaderRejected : Obligations.DecodeHeaderRejected := by
  intro h s opens ans reads code reason detail hready hw hb hopen hread hverdict
  obtain ⟨t, hcheck, hside, hheld, hunread⟩ :=
    checkImage_rejected (s := sourceOpened h opens s) (reads := reads) hw hread hverdict
  obtain ⟨hcode, -⟩ := (within_checkImage (h := h) (sourceOpened h opens s)).of_raise hcheck
  have hexec := runOperation_raise (op := .decodeBmp) (src := some h) (decodeBmpBody_rejected hready hopen hcheck)
  have hopened : t.decSrcOpen = true := by rw [hside]; rfl
  have hrelease : releaseEvents t = releaseEvents s := by rw [hside]; rfl
  have hevents : t.events =
      s.events ++ [.srcOpen h true, .srcRead 0 s.cfg.headerSize (readAnswer s.cfg.headerSize ans)] := by
    rw [hside]
    simp [State.events, headerAnswered, sourceOpened, startDecode]
  have hcfg : t.cfg = s.cfg := by rw [hside]; rfl
  have hgram : NoHalfPixel s →
      SameGram s (takeAbort ⟨some .decodeBmp, some h, reason, detail⟩ code t) := by
    intro hhalf a
    have hsame : gramByte t a = gramByte s a := by rw [hside]; rfl
    have hhalf : NoHalfPixel t := by rw [hside]; exact hhalf
    rw [gramByte_takeAbort hcode, sameGram_closeStream hhalf, hsame]
  generalize hend : takeAbort ⟨some .decodeBmp, some h, reason, detail⟩ code t = e at *
  have hframe : e.drvState = .ready ∧ e.decSrcOpen = false ∧ e.ctl = s.ctl ∧ e.openIn = opens ∧ e.readIn = reads ∧
      e.txIn = s.txIn ∧ e.inbuf = s.inbuf ∧ e.outbuf = s.outbuf := by
    rw [← hend, takeAbort_frame hcode, hside]
    exact ⟨hready, rfl, rfl, rfl, rfl, rfl, rfl, rfl⟩
  obtain ⟨hdrv, hsrc, hctl, hopens, hreads, htx, hinbuf, houtbuf⟩ := hframe
  refine ⟨e, hexec, hend ▸ takeAbort_endedWith hcode, ?_, hdrv, hend ▸ takeAbort_busReleased hcode ?_, hsrc, hctl, hgram,
    hopens, hreads, htx, hinbuf, houtbuf, fun bs hbs hlen i hi => ?_, fun hshort => ?_⟩
  · rw [← hend, takeAbort_events hcode, hevents, hrelease, sourceCloseEvents, if_pos hopened]
  · rw [hside]
    exact hb.trans
  · obtain ⟨-, -, -, hcells⟩ := hheld bs hbs hlen
    rw [hcfg] at hcells
    rw [← hend, takeAbort_frame hcode, ← List.getElem?_take_of_lt hi]
    exact hcells i (by rw [List.length_take]; omega)
  · rw [← hend, takeAbort_frame hcode]
    exact hunread hshort

end Sys2Proof.Proofs
end

section
/-! PROOFS. The rows of DECODE_BMP (spec/44_bitmap_decoder.md R188-R192): one row, the loop over the rows, and where it stops.

A part of the loop that leaves `w` from `t` is described by its events and by the stream bytes that the controller has taken
(`Drawn`). Both are appended where two parts follow each other, whatever TFTCORE did in between. -/

namespace Sys2Proof.Proofs

open Sys2Proof.Machine Sys2Proof.Safety

/-! ## Parts of the row loop -/

/-- `t` is `s` after a part of the row loop with the events `es`, the controller having taken the stream bytes `bs`: of TFTCORE
only the sequencer, the row, the row buffers and the answers that wait have changed. -/
structure Drawn (es : List Event) (bs : List Byte) (s t : State) : Prop where
  frame : t = { s with
    seq := t.seq, decRow := t.decRow, decWritten := t.decWritten, inbuf := t.inbuf, outbuf := t.outbuf
    inbufWritten := t.inbufWritten, outbufWritten := t.outbufWritten, ctl := t.ctl, gram := t.gram
    gramEpoch := t.gramEpoch, freeCtr := t.freeCtr, readIn := t.readIn, cancelIn := t.cancelIn, txIn := t.txIn
    trace := es.reverse ++ s.trace }
  written : s.decWritten ⊆ t.decWritten
  taken : ctlDatas bs s = .ok (withController t s)

section drawn
variable {es es' : List Event} {bs bs' : List Byte} {s t u : State}

theorem Drawn.refl (s : State) : Drawn [] [] s s := ⟨rfl, List.Subset.refl _, rfl⟩

theorem Drawn.trans (h : Drawn es bs s t) (k : Drawn es' bs' t u) : Drawn (es ++ es') (bs ++ bs') s u := by
  refine ⟨?_, fun _ hr => k.written (h.written hr), ?_⟩
  · rw [List.reverse_append, List.append_assoc, k.frame, h.frame]
  · rw [ctlDatas_append h.taken, ctlDatas_withController, k.taken]
    rfl

theorem Drawn.cfg (h : Drawn es bs s t) : t.cfg = s.cfg := by rw [h.frame]

/-- Bytes of the stream that the controller takes, with the events of their transfers. -/
theorem drawn_of_ctlDatas (es : List Event) (ti : List TxAns) (h : ctlDatas bs s = .ok t) :
    Drawn es bs s (withPorts ti (es.reverse ++ s.trace) t) := by
  have honly := ctlDatas_only h
  refine ⟨?_, ?_, h.trans (congrArg Except.ok ?_)⟩
  · rw [withPorts, honly]
  · rw [withPorts, honly]
    exact List.Subset.refl _
  · exact (withController_of_onlyController honly).symm.trans rfl

end drawn

/-! ## Between two rows -/

/-- The registers that the rows of an image are drawn by (R181, R186, R188). -/
structure ImageRegs (hdr : List Byte) (s : State) : Prop where
  srcHWritten : .srcH ∈ s.decWritten
  rowSizeWritten : .rowSize ∈ s.decWritten
  wWritten : .w ∈ s.decWritten
  srcH : s.decSrcH = headerHeight hdr
  rowSize : s.decRowSize = imageRowSize hdr
  w : s.decW = imageWidth s.cfg hdr

/-- A row of the image can be drawn: the stream is open, and the controller takes any bytes of it. -/
structure Drawing (hdr : List Byte) (s : State) : Prop where
  isOpen : s.streamOpen = true
  dataMode : s.dc = .data
  takes : ∀ bs, ∃ v, ctlDatas bs s = .ok v
  regs : ImageRegs hdr s

theorem Drawing.drawn {hdr : List Byte} {es : List Event} {bs : List Byte} {s t : State} (h : Drawing hdr s)
    (k : Drawn es bs s t) : Drawing hdr t := by
  obtain ⟨hopen, hdata, htakes, hsrcH, hrowSize, hw, hsrcHeq, hrowSizeEq, hwEq⟩ := h
  refine ⟨?_, ?_, fun bs' => ?_, k.written hsrcH, k.written hrowSize, k.written hw, ?_, ?_, ?_⟩
  · rw [k.frame]; exact hopen
  · rw [k.frame]; exact hdata
  · obtain ⟨v, hv⟩ := htakes (bs ++ bs')
    rw [ctlDatas_append k.taken, ctlDatas_withController] at hv
    cases htaken : ctlDatas bs' t with
    | ok u => exact ⟨u, rfl⟩
    | error f => rw [htaken] at hv; cases hv
  · rw [k.frame]; exact hsrcHeq
  · rw [k.frame]; exact hrowSizeEq
  · rw [k.frame]; exact hwEq

/-! ## One row (R188-R190) -/

/-- The read of row `r`, with its answer (R188). -/
def rowRead (c : Config) (hdr : List Byte) (r : Nat) (ans : SrcAns) : Event :=
  .srcRead (imageRowOffset c hdr r) (imageRowSize hdr) (readAnswer (imageRowSize hdr) ans)

/-- DECODE_BMP once the read of row `r` has been answered, whatever it does with the answer. -/
def rowAnswered (hdr : List Byte) (r : Nat) (ans : SrcAns) (reads : List SrcAns) (s : State) : State :=
  { s with
    seq := .bmpRow r, decRow := r, decWritten := .row :: s.decWritten, readIn := reads
    trace := rowRead s.cfg hdr r ans :: s.trace }

section row
variable {hdr row : List Byte} {r : Nat} {ans : SrcAns} {reads : List SrcAns} {s : State}

theorem drawn_rowAnswered : Drawn [rowRead s.cfg hdr r ans] [] s (rowAnswered hdr r ans reads s) :=
  ⟨rfl, List.subset_cons_self _ _, rfl⟩

/-- READ_ROW at the start of a row: what it does with the source's answer (R188). -/
theorem readRow_answered (h : ImageRegs hdr s) (hread : s.readIn = ans :: reads) :
    readRow r (writeDec .row (fun s => { s with decRow := r }) (setSeq (.bmpRow r) s)) =
      match readAnswer (imageRowSize hdr) ans with
      | .ok bs => writeBuffer .inbuf 0 (bs.take (3 * imageWidth s.cfg hdr)) (rowAnswered hdr r ans reads s)
      | _ => .error (.raise .sourceReadError none (.sourceRead (some r) (imageRowOffset s.cfg hdr r) (imageRowSize hdr)))
        (rowAnswered hdr r ans reads s) := by
  obtain ⟨hsrcH, hrowSize, hw, hsrcHeq, hrowSizeEq, hwEq⟩ := h
  obtain ⟨t, ht⟩ : ∃ t, t = writeDec .row (fun s => { s with decRow := r }) (setSeq (.bmpRow r) s) := ⟨_, rfl⟩
  have hwritten : ∀ x ∈ s.decWritten, x ∈ t.decWritten := fun x hx => ht ▸ List.mem_cons_of_mem _ hx
  have hreadDec : ∀ x ∈ s.decWritten, ∀ {α} (f : State → α), readDec x f t = .ok (f t) t := fun x hx _ _ =>
    readDec_ok (hwritten x hx)
  have hoff : rowOffset t.cfg t.decSrcH.toNat (imageRowSize hdr) r = imageRowOffset s.cfg hdr r := by
    rw [ht]
    show rowOffset s.cfg s.decSrcH.toNat _ r = _
    rw [hsrcHeq]
    rfl
  have hsize : t.decRowSize = imageRowSize hdr := ht ▸ hrowSizeEq
  have hwidth : t.decW = imageWidth s.cfg hdr := ht ▸ hwEq
  have hsrc : srcRead (imageRowOffset s.cfg hdr r) (imageRowSize hdr) t =
      .ok (readAnswer (imageRowSize hdr) ans) (rowAnswered hdr r ans reads s) := by
    rw [srcRead_cons (a := ans) (rest := reads) (ht ▸ hread), ht]
    rfl
  rw [← ht]
  simp only [readRow, op_bind, look_apply, hreadDec _ hsrcH, hreadDec _ hrowSize, hreadDec _ hw, hsize, hwidth, hoff, hsrc]
  cases readAnswer (imageRowSize hdr) ans <;> rfl

/-- CONVERT_ROW, from pixel `i` on: the pixels of the row in `INBUF` are appended to the stream bytes in `OUTBUF` (R189). -/
theorem convertPixels_holds {n i w : Nat} (hin : Holds .inbuf (row.take (3 * w)) s) (hlen : 3 * w ≤ row.length)
    (hw : w ≤ s.cfg.panelW) (hn : i + n = w) (hout : Holds .outbuf (rowStream s.cfg.swapRb i row) s) :
    ∃ m k, convertPixels n i s = .ok () (setBuffer .outbuf m k s) ∧
      Holds .outbuf (rowStream s.cfg.swapRb w row) (setBuffer .outbuf m k s) := by
  induction n generalizing i s with
  | zero => exact ⟨s.outbuf, s.outbufWritten, rfl, hn ▸ hout⟩
  | succ n ih =>
    have hbyte : ∀ j, j < 3 * w → readBufferByte .inbuf j s = .ok (byteAt row j) s := fun j hj => by
      rw [hin.readBufferByte (by rw [List.length_take]; omega), byteAt_take hj]
    have hlength := length_rowStream s.cfg.swapRb i row
    obtain ⟨m, k, hwrite, hnext⟩ := hout.writeBuffer (ys := be16Bytes (rowPixel s.cfg.swapRb row i)) (by
      show (rowStream s.cfg.swapRb i row).length + 2 ≤ 2 * s.cfg.panelW
      omega)
    rw [hlength] at hwrite
    have hpixel : convertPixelAt i s = .ok () (setBuffer .outbuf m k s) := by
      simp only [convertPixelAt, op_bind, look_apply, hbyte (3 * i) (by omega), hbyte (3 * i + 1) (by omega),
        hbyte (3 * i + 2) (by omega)]
      exact hwrite
    obtain ⟨m', k', hrest, hheld⟩ := ih (s := setBuffer .outbuf m k s) (hin.other nofun) hw (i := i + 1) (by omega)
      (by rw [rowStream_succ]; exact hnext)
    exact ⟨m', k', by rw [convertPixels, op_bind, hpixel]; exact hrest, hheld⟩

/-- A stored row holds the pixels of the image's row (R82, R186). -/
theorem pixels_le_imageRowSize (c : Config) (hdr : List Byte) : 3 * imageWidth c hdr ≤ imageRowSize hdr := by
  have hrow := le_rowSize (headerWidth hdr).toNat
  unfold imageRowSize imageWidth
  omega

/-- READ_ROW of a row that came whole keeps its pixels (R188). -/
theorem readRow_whole (h : ImageRegs hdr s) (hread : s.readIn = .data row :: reads)
    (hlen : imageRowSize hdr ≤ row.length) (hpanel : imageWidth s.cfg hdr ≤ s.cfg.panelW) :
    ∃ m k, readRow r (writeDec .row (fun s => { s with decRow := r }) (setSeq (.bmpRow r) s)) =
        .ok () (setBuffer .inbuf m k (rowAnswered hdr r (.data row) reads s)) ∧
      Holds .inbuf (row.take (3 * imageWidth s.cfg hdr))
        (setBuffer .inbuf m k (rowAnswered hdr r (.data row) reads s)) := by
  obtain ⟨m, k, hwrite, hin⟩ := (holds_nil .inbuf (rowAnswered hdr r (.data row) reads s)).writeBuffer
    (ys := row.take (3 * imageWidth s.cfg hdr)) (by
      show 0 + (row.take (3 * imageWidth s.cfg hdr)).length ≤ 3 * s.cfg.panelW
      rw [List.length_take]
      omega)
  refine ⟨m, k, ?_, hin⟩
  rw [readRow_answered h hread, readAnswer_data, if_pos hlen]
  show writeBuffer .inbuf 0 ((row.take (imageRowSize hdr)).take _) _ = _
  rw [List.take_take, Nat.min_eq_left (pixels_le_imageRowSize _ _)]
  exact hwrite

/-- One row up to its hand-off: the stored row is read, its stream bytes stand in `OUTBUF`, and APPEND sends them. -/
theorem doRow_sends (h : Drawing hdr s) (hpanel : imageWidth s.cfg hdr ≤ s.cfg.panelW)
    (hread : s.readIn = .data row :: reads) (hlen : imageRowSize hdr ≤ row.length) :
    ∃ p, doRow r s = sendBytes .stream closeStream 0 (rowStream s.cfg.swapRb (imageWidth s.cfg hdr) row) p ∧
      Drawn [rowRead s.cfg hdr r (.data row)] [] s p ∧ p.readIn = reads ∧ p.cancelIn = s.cancelIn ∧ p.txIn = s.txIn ∧
      p.decRow = r := by
  obtain ⟨m, k, hrow, hin⟩ := readRow_whole (r := r) h.regs hread hlen hpanel
  obtain ⟨t, ht⟩ : ∃ t, t = setBuffer .inbuf m k (rowAnswered hdr r (.data row) reads s) := ⟨_, rfl⟩
  rw [← ht] at hrow hin
  have hcfg : t.cfg = s.cfg := ht ▸ rfl
  obtain ⟨m', k', hconvert, hout⟩ := convertPixels_holds (i := 0) (n := imageWidth s.cfg hdr) hin
    ((pixels_le_imageRowSize _ _).trans hlen) (hcfg.symm ▸ hpanel) (Nat.zero_add _) (holds_nil _ _)
  obtain ⟨p, hp⟩ : ∃ p, p = setBuffer .outbuf m' k' t := ⟨_, rfl⟩
  rw [← hp] at hconvert hout
  have hwidth : ∀ {u}, u.decWritten = .row :: s.decWritten → u.decW = s.decW →
      readDec .w (fun s => s.decW) u = .ok (imageWidth s.cfg hdr) u := by
    intro u hwritten hu
    rw [readDec_ok (by rw [hwritten]; exact List.mem_cons_of_mem _ h.regs.wWritten), hu, h.regs.w]
  have hrowWidth := hwidth (u := t) (ht ▸ rfl) (ht ▸ rfl)
  have houtWidth := hwidth (u := p) (by rw [hp, ht]; rfl) (by rw [hp, ht]; rfl)
  have hbytes : readBuffer .outbuf 0 (2 * imageWidth s.cfg hdr) p =
      .ok (rowStream s.cfg.swapRb (imageWidth s.cfg hdr) row) p := by
    rw [hcfg] at hout
    rw [← length_rowStream s.cfg.swapRb (imageWidth s.cfg hdr) row]
    exact hout.readBuffer
  have hopen : p.streamOpen = true := by rw [hp, ht]; exact h.isOpen
  refine ⟨p, ?_, ?_⟩
  · simp only [doRow, convertRow, handOff, op_bind, update_apply, hrow, hrowWidth, hconvert, houtWidth, hbytes,
      append_open hopen]
  · rw [hp, ht]
    exact ⟨⟨rfl, List.subset_cons_self _ _, rfl⟩, rfl, rfl, rfl, rfl⟩

/-- A row whose read fails or comes short raises before anything of it is converted (R188). -/
theorem doRow_unread (h : Drawing hdr s) (hread : s.readIn = ans :: reads)
    (hbad : ∀ bs, ans = .data bs → bs.length < imageRowSize hdr) :
    doRow r s = .error
      (.raise .sourceReadError none (.sourceRead (some r) (imageRowOffset s.cfg hdr r) (imageRowSize hdr)))
      (rowAnswered hdr r ans reads s) := by
  have hrow : readRow r (writeDec .row (fun s => { s with decRow := r }) (setSeq (.bmpRow r) s)) = .error
      (.raise .sourceReadError none (.sourceRead (some r) (imageRowOffset s.cfg hdr r) (imageRowSize hdr)))
      (rowAnswered hdr r ans reads s) := by
    rw [readRow_answered h.regs hread]
    cases ans with
    | fail => rfl
    | data bs => rw [readAnswer_data, if_neg (Nat.not_le.2 (hbad bs rfl))]
  simp only [doRow, op_bind, update_apply, hrow]

/-- The events of row `r`, read and sent whole (R188, R190). -/
def rowEvents (c : Config) (hdr : List Byte) (r : Nat) (row : List Byte) : List Event :=
  .srcRead (imageRowOffset c hdr r) (imageRowSize hdr) (.ok (row.take (imageRowSize hdr))) ::
    sentEvents (rowStream c.swapRb (imageWidth c hdr) row)

theorem rowsEvents_succ (c : Config) (hdr : List Byte) (rows : Nat → List Byte) (n : Nat) :
    rowsEvents c hdr rows (n + 1) = rowsEvents c hdr rows n ++ rowEvents c hdr n (rows n) := by
  simp [rowsEvents, rowEvents, List.range_succ]

theorem rowRead_whole {c : Config} (hlen : imageRowSize hdr ≤ row.length) : rowRead c hdr r (.data row) =
    .srcRead (imageRowOffset c hdr r) (imageRowSize hdr) (.ok (row.take (imageRowSize hdr))) := by
  rw [rowRead, readAnswer_data, if_pos hlen]

/-- A row with its read answered in full and its transfers ok. -/
theorem doRow_ok {rest : List TxAns} (h : Drawing hdr s) (hpanel : imageWidth s.cfg hdr ≤ s.cfg.panelW)
    (hread : s.readIn = .data row :: reads) (hlen : imageRowSize hdr ≤ row.length)
    (htx : TransfersOk s (2 * imageWidth s.cfg hdr) rest) :
    ∃ t, doRow r s = .ok () t ∧
      Drawn (rowEvents s.cfg hdr r row) (rowStream s.cfg.swapRb (imageWidth s.cfg hdr) row) s t ∧
      t.readIn = reads ∧ t.cancelIn = s.cancelIn ∧ t.txIn = rest ∧ t.decRow = r := by
  obtain ⟨p, hrow, hprepared, hreads, hcancels, htxs, hrowReg⟩ := doRow_sends (r := r) h hpanel hread hlen
  have hp := h.drawn hprepared
  obtain ⟨v, hv⟩ := hp.takes (rowStream s.cfg.swapRb (imageWidth s.cfg hdr) row)
  have hsends := sends_of_ctlDatas (rest := rest) hp.dataMode
    (by rw [TransfersOk, length_rowStream, htxs]; exact htx) hv
  have hsent := drawn_of_ctlDatas (sentEvents (rowStream s.cfg.swapRb (imageWidth s.cfg hdr) row)) rest hv
  rw [rowRead_whole hlen] at hprepared
  refine ⟨_, hrow.trans (sendBytes_eq_ok_iff.2 hsends), hprepared.trans hsent, ?_⟩
  have honly := ctlDatas_only hv
  rw [honly]
  exact ⟨hreads, hcancels, rfl, hrowReg⟩

/-- A row whose stream byte `j` fails: the controller has taken the bytes before it, and that byte or not (R130, R190). -/
theorem doRow_failed {rest : List TxAns} {a : TxAns} {j : Nat} (h : Drawing hdr s)
    (hpanel : imageWidth s.cfg hdr ≤ s.cfg.panelW) (hread : s.readIn = .data row :: reads)
    (hlen : imageRowSize hdr ≤ row.length) (hj : j < 2 * imageWidth s.cfg hdr) (htx : TransferFails s j a rest) :
    ∃ b n w, doRow r s = .error (transferStop ⟨.stream, none, j⟩) (closeStream w) ∧ (n = j ∨ n = j + 1) ∧
      Drawn (rowRead s.cfg hdr r (.data row) ::
          (sentEvents ((rowStream s.cfg.swapRb (imageWidth s.cfg hdr) row).take j) ++ [.tx b false]))
        ((rowStream s.cfg.swapRb (imageWidth s.cfg hdr) row).take n) s w ∧
      w.readIn = reads ∧ w.cancelIn = s.cancelIn ∧ w.txIn = rest := by
  obtain ⟨p, hrow, hprepared, hreads, hcancels, htxs, -⟩ := doRow_sends (r := r) h hpanel hread hlen
  have hp := h.drawn hprepared
  obtain ⟨bs, hbs⟩ : ∃ bs, bs = rowStream s.cfg.swapRb (imageWidth s.cfg hdr) row := ⟨_, rfl⟩
  have hj' : j < bs.length := by rwa [hbs, length_rowStream]
  obtain ⟨u, n, v, hsends, hn, hv, hfail⟩ := tx_failed_after (s := p) (rest := rest) hp.dataMode hj'
    ⟨htxs.trans htx.1, htx.2⟩ fun n => hp.takes (bs.take n)
  have hsend := sendBytes_failed (frame := .stream) (close := closeStream) (ys := bs.drop (j + 1)) (i := 0) hsends hfail
  rw [List.getElem_cons_drop, List.take_append_drop, List.length_take, Nat.min_eq_left hj'.le, Nat.zero_add] at hsend
  have hsent := drawn_of_ctlDatas (sentEvents (bs.take j) ++ [.tx bs[j] false]) rest hv
  rw [List.reverse_append, List.append_assoc (List.reverse _)] at hsent
  rw [← hbs] at hrow ⊢
  refine ⟨bs[j], n, _, hrow.trans hsend, hn, hprepared.trans hsent, ?_⟩
  have honly := ctlDatas_only hv
  rw [honly]
  exact ⟨hreads, hcancels, rfl⟩

end row

/-! ## The loop over the rows (R181, R192) -/

section loop
variable {r n : Nat} {s t u : State}

/-- The loop stops where its first row does. -/
theorem rowLoop_of_doRow_error {e : Stop} (h : doRow r s = .error e t) : rowLoop (n + 1) r s = .error e t := by
  cases n with
  | zero => exact h
  | succ n => rw [rowLoop, op_bind, h]

/-- A row that is not the last is followed by a cancel point. -/
theorem rowLoop_of_doRow {stop : Bool} {cancels : List Bool} (h : doRow r s = .ok () t)
    (hcancel : t.cancelIn = stop :: cancels) : rowLoop (n + 2) r s =
      if stop then .error (.raise .cancelled none (.rowsWritten (r + 1))) { t with cancelIn := cancels }
      else rowLoop (n + 1) (r + 1) { t with cancelIn := cancels } := by
  simp only [rowLoop, cancelPoint, op_bind, h, sampleCancel_cons hcancel]
  cases stop <;> rfl

theorem drawn_cancelPoint (cancels : List Bool) (s : State) : Drawn [] [] s { s with cancelIn := cancels } :=
  ⟨rfl, List.Subset.refl _, rfl⟩

end loop

/-- `q` rows, each answered in full, its transfers ok, and no cancel after it, bring the loop to row `q`. -/
theorem rowLoop_rows {hdr : List Byte} {rows : Nat → List Byte} {c : Config} {n q : Nat} {s : State} (hc : s.cfg = c)
    (h : Drawing hdr s) (hpanel : imageWidth c hdr ≤ c.panelW) (hq : q < n)
    (hrows : ∀ r, r < q → imageRowSize hdr ≤ (rows r).length) {reads : List SrcAns} {cancels : List Bool}
    {rest : List TxAns} (hread : s.readIn = ((List.range q).map fun r => SrcAns.data (rows r)) ++ reads)
    (hcancel : s.cancelIn = List.replicate q false ++ cancels)
    (htx : TransfersOk s (2 * imageWidth c hdr * q) rest) :
    ∃ t, rowLoop n 0 s = rowLoop (n - q) q t ∧
      Drawn (rowsEvents c hdr rows q) (rowsStream c.swapRb (imageWidth c hdr) q rows) s t ∧
      t.readIn = reads ∧ t.cancelIn = cancels ∧ t.txIn = rest := by
  subst hc
  induction q generalizing reads cancels rest with
  | zero => exact ⟨s, rfl, .refl s, hread, hcancel, by rwa [TransfersOk, Nat.mul_zero] at htx⟩
  | succ q ih =>
    rw [List.range_succ, List.map_append, List.append_assoc] at hread
    rw [List.replicate_succ', List.append_assoc] at hcancel
    rw [TransfersOk, Nat.mul_succ, List.replicate_add, List.append_assoc] at htx
    obtain ⟨t, hloop, hdrawn, hreads, hcancels, htxs⟩ := ih (by omega) (fun r hr => hrows r (by omega)) hread hcancel htx
    have hcfg := hdrawn.cfg
    have hlen := hrows q (by omega)
    obtain ⟨u, hrow, hrowDrawn, hreads, hcancels', htxs, -⟩ := doRow_ok (r := q) (rest := rest) (h.drawn hdrawn)
      (hcfg ▸ hpanel) hreads hlen (hcfg ▸ htxs)
    rw [hcfg] at hrowDrawn
    have hnext := rowLoop_of_doRow (n := n - (q + 2)) hrow (hcancels'.trans hcancels)
    rw [if_neg (by decide), show n - (q + 2) + 2 = n - q by omega, show n - (q + 2) + 1 = n - (q + 1) by omega] at hnext
    refine ⟨_, hloop.trans hnext, ?_, hreads, rfl, htxs⟩
    rw [rowsEvents_succ, rowsStream_succ]
    have hall := (hdrawn.trans hrowDrawn).trans (drawn_cancelPoint cancels u)
    rwa [List.append_nil, List.append_nil] at hall

end Sys2Proof.Proofs
end

section
/-! PROOFS. DECODE_BMP of an accepted header (spec/44_bitmap_decoder.md R181-R193): how the operation ends where its rows do, and
what it has left then. Whether the rows are all drawn or the loop stops at one of them, what follows is the end of the stream
and of the source, so a completed DECODE_BMP ends as the abort sequence of the code OK would (`exec_decodeBmp_ok`). -/

namespace Sys2Proof.Proofs

open Sys2Proof.Machine Sys2Proof.Safety

/-! ## From the request to the window (R181) -/

/-- The source opens, and its header passes every check (R181-R187). -/
structure ImageFound (hdr : List Byte) (opens : List Bool) (s : State) : Prop where
  ready : s.drvState = .ready
  wf : s.cfg.wf = true
  bus : s.busSel = s.streamOpen
  opened : s.openIn = true :: opens
  accepted : headerAccepted s.cfg hdr

/-- DECODE_BMP before its window body: the header checked, the decoder's registers written. -/
def imageReady (h : Byte) (hdr : List Byte) (opens : List Bool) (reads : List SrcAns) (s : State) : State :=
  { s with
    seq := .bmpWin, openIn := opens, readIn := reads, decSrcOpen := true
    decSrcW := headerWidth hdr, decSrcH := headerHeight hdr, decBpp := headerDepth hdr, decW := imageWidth s.cfg hdr
    decH := imageHeight s.cfg hdr, decRowSize := imageRowSize hdr
    decWritten := [.rowSize, .h, .w, .bpp, .srcH, .srcW]
    hdr := memWriteBytes s.hdr 0 (hdr.take s.cfg.headerSize)
    hdrWritten := writtenAfter 0 0 (hdr.take s.cfg.headerSize).length, inbufWritten := 0, outbufWritten := 0
    trace := .srcRead 0 s.cfg.headerSize (readAnswer s.cfg.headerSize (.data hdr)) :: .srcOpen h true :: s.trace }

/-- It is what the opening of the source and the checks leave, once the sequencer goes to the window. -/
theorem imageReady_eq (h : Byte) (hdr : List Byte) (opens : List Bool) (reads : List SrcAns) (s : State) :
    setSeq .bmpWin (rowSizeSet hdr (headerTaken hdr reads (sourceOpened h opens s))) = imageReady h hdr opens reads s := by
  simp only [setSeq, rowSizeSet, imageClipped, fieldsExtracted, headerTaken, headerAnswered, sourceOpened, startDecode,
    imageReady]

/-- `t` is `s` once DECODE_BMP has opened the stream of the image's window. -/
def ImageOpened (h : Byte) (hdr : List Byte) (opens : List Bool) (reads : List SrcAns) (rest : List TxAns) (s t : State) :
    Prop :=
  WindowOpened 0 0 (lastImageColumn s.cfg hdr) (lastImageRow s.cfg hdr) rest (imageReady h hdr opens reads s) t

theorem imageReady_events (h : Byte) (hdr : List Byte) (opens : List Bool) (reads : List SrcAns) (s : State) :
    (imageReady h hdr opens reads s).events =
      s.events ++ [.srcOpen h true, .srcRead 0 s.cfg.headerSize (readAnswer s.cfg.headerSize (.data hdr))] := by
  show (_ :: _ :: s.trace).reverse = _
  rw [List.reverse_cons, List.reverse_cons, List.append_assoc]
  rfl

section found
variable {h : Byte} {hdr : List Byte} {opens : List Bool} {reads : List SrcAns} {s w : State}

/-- The clipped image has a pixel and fits the panel (R186, R187). -/
theorem ImageFound.size (hf : ImageFound hdr opens s) : 1 ≤ imageWidth s.cfg hdr ∧ imageWidth s.cfg hdr ≤ s.cfg.panelW ∧
    1 ≤ imageHeight s.cfg hdr ∧ imageHeight s.cfg hdr ≤ s.cfg.panelH := by
  obtain ⟨hpw, -, hph, -⟩ := wf_bounds hf.wf
  obtain ⟨-, -, -, -, hw, hh⟩ := hf.accepted
  unfold imageWidth imageHeight
  omega

/-- The window body and the rows, from the registers that the checks have written. -/
theorem drawImage_rowSizeSet : drawImage (rowSizeSet hdr s) =
    (windowBody 0 0 (lastImageColumn s.cfg hdr) (lastImageRow s.cfg hdr) >>= fun _ =>
      rowLoop (imageHeight s.cfg hdr) 0) (setSeq .bmpWin (rowSizeSet hdr s)) := by
  have hread : ∀ r ∈ [DecReg.w, .h], ∀ {α} (f : State → α), readDec r f (setSeq .bmpWin (rowSizeSet hdr s)) =
      .ok (f (setSeq .bmpWin (rowSizeSet hdr s))) (setSeq .bmpWin (rowSizeSet hdr s)) := fun r hr _ _ =>
    readDec_ok (by simp only [setSeq_decWritten, rowSizeSet, imageClipped]; grind)
  simp only [drawImage, op_bind, update_apply, hread .w (by simp), hread .h (by simp)]
  rfl

theorem drawImage_found : drawImage (rowSizeSet hdr (headerTaken hdr reads (sourceOpened h opens s))) =
    (windowBody 0 0 (lastImageColumn s.cfg hdr) (lastImageRow s.cfg hdr) >>= fun _ =>
      rowLoop (imageHeight s.cfg hdr) 0) (imageReady h hdr opens reads s) := by
  rw [drawImage_rowSizeSet, imageReady_eq]
  rfl

/-- DECODE_BMP of an accepted header is what its window and rows make of it. -/
theorem decodeBmpBody_found (hf : ImageFound hdr opens s) (hread : s.readIn = .data hdr :: reads) :
    decodeBmpBody h s = (drawImage >>= fun _ => update (setSeq .bmpDone) >>= fun _ => update closeStream >>= fun _ =>
      update closeSource >>= fun _ => pure none) (rowSizeSet hdr (headerTaken hdr reads (sourceOpened h opens s))) := by
  rw [decodeBmpBody_opened hf.ready hf.opened, op_bind,
    checkImage_accepted (s := sourceOpened h opens s) hf.wf hf.accepted hread]

/-- Where the rows are all drawn, DECODE_BMP returns with the stream and the source closed. -/
theorem exec_decodeBmp_ok (hf : ImageFound hdr opens s) (hread : s.readIn = .data hdr :: reads)
    (hdraw : drawImage (rowSizeSet hdr (headerTaken hdr reads (sourceOpened h opens s))) = .ok () w) :
    exec (.decodeBmp h) s = .next (takeAbort .empty .ok (setSeq .bmpDone w)) := by
  show runOperation .decodeBmp (some h) (decodeBmpBody h) s = _
  rw [runOperation, decodeBmpBody_found hf hread, op_bind, hdraw]
  rfl

/-- Where the window or a row raises, the abort sequence follows. -/
theorem exec_decodeBmp_raise {code : StCode} {reason : Option Reason} {detail : Detail} (hf : ImageFound hdr opens s)
    (hread : s.readIn = .data hdr :: reads)
    (hdraw : drawImage (rowSizeSet hdr (headerTaken hdr reads (sourceOpened h opens s))) =
      .error (.raise code reason detail) w) :
    exec (.decodeBmp h) s = .next (takeAbort ⟨some .decodeBmp, some h, reason, detail⟩ code w) :=
  runOperation_raise (op := .decodeBmp) (src := some h) (by rw [decodeBmpBody_found hf hread, op_bind, hdraw])

end found

/-! ## The stream of the image -/

section opened
variable {h : Byte} {hdr : List Byte} {opens : List Bool} {reads : List SrcAns} {rest : List TxAns} {s t : State}

theorem ImageOpened.cfg (ht : ImageOpened h hdr opens reads rest s t) : t.cfg = s.cfg := by
  rw [WindowOpened.frame ht]
  rfl

theorem ImageOpened.origin (ht : ImageOpened h hdr opens reads rest s t) (hf : ImageFound hdr opens s) :
    OriginStream (imageWidth s.cfg hdr) (imageHeight s.cfg hdr) t := by
  obtain ⟨hw, hwp, hh, hhp⟩ := hf.size
  exact WindowOpened.origin (s := imageReady h hdr opens reads s) ht hf.wf hw hwp hh hhp

theorem ImageOpened.drawing (ht : ImageOpened h hdr opens reads rest s t) (hf : ImageFound hdr opens s) :
    Drawing hdr t := by
  have hwritten : t.decWritten = [.rowSize, .h, .w, .bpp, .srcH, .srcW] := by rw [WindowOpened.frame ht]; rfl
  refine ⟨ht.isOpen, ht.dataMode, fun bs => ((ht.origin hf).streamed bs).imp fun _ hv => hv.1, ?_, ?_, ?_, ?_, ?_, ?_⟩
  · rw [hwritten]; simp
  · rw [hwritten]; simp
  · rw [hwritten]; simp
  · rw [WindowOpened.frame ht]; rfl
  · rw [WindowOpened.frame ht]; rfl
  · rw [WindowOpened.frame ht]; rfl

theorem ImageOpened.events (ht : ImageOpened h hdr opens reads rest s t) (hf : ImageFound hdr opens s) :
    t.events = s.events ++ [.srcOpen h true, .srcRead 0 s.cfg.headerSize (.ok (hdr.take s.cfg.headerSize))] ++
      releaseEvents s ++ windowEvents s.cfg 0 0 (lastImageColumn s.cfg hdr) (lastImageRow s.cfg hdr) := by
  obtain ⟨hlen, -⟩ := hf.accepted
  have hanswer : readAnswer s.cfg.headerSize (.data hdr) = .ok (hdr.take s.cfg.headerSize) := if_pos hlen
  rw [WindowOpened.events ht, imageReady_events, hanswer]
  rfl

/-- The window body with its eleven transfers ok, and the state that the row loop starts in. -/
theorem image_opens (hf : ImageFound hdr opens s) (htx : TransfersOk s 11 rest) :
    ∃ t, windowBody 0 0 (lastImageColumn s.cfg hdr) (lastImageRow s.cfg hdr) (imageReady h hdr opens reads s) = .ok () t ∧
      ImageOpened h hdr opens reads rest s t ∧ t.readIn = reads ∧ t.cancelIn = s.cancelIn ∧ t.txIn = rest := by
  obtain ⟨t, hbody, ht⟩ := windowBody_ok (x0 := 0) (y0 := 0) (x1 := lastImageColumn s.cfg hdr)
    (y1 := lastImageRow s.cfg hdr) (s := imageReady h hdr opens reads s) hf.wf hf.bus htx
  refine ⟨t, hbody, ht, ?_⟩
  rw [ht.frame]
  exact ⟨rfl, rfl, rfl⟩

theorem ImageOpened.sameGram (ht : ImageOpened h hdr opens reads rest s t) (hhalf : NoHalfPixel s) : SameGram s t :=
  (WindowOpened.sameGram (s := imageReady h hdr opens reads s) ht hhalf :)

theorem ImageOpened.sixteenBit_eq (ht : ImageOpened h hdr opens reads rest s t) : sixteenBit t = sixteenBit s := by
  rw [sixteenBit, ht.cfg, WindowOpened.ctl ht]
  rfl

end opened

/-! ## What DECODE_BMP leaves where its rows end -/

/-- `e` is what DECODE_BMP leaves of `s` where the rows end with the events `es`, the controller having taken the stream bytes
`bs`: the stream and the source are closed, and the pixels of `bs` stand in the first cells of the image's window. -/
structure ImageEnded (h : Byte) (hdr : List Byte) (opens : List Bool) (es : List Event) (bs : List Byte) (s e : State) :
    Prop where
  cfg : e.cfg = s.cfg
  driver : e.drvState = .ready ∧ e.dc = .data ∧ e.rstLvl = s.rstLvl
  released : BusReleased e
  registers : e.decSrcW = headerWidth hdr ∧ e.decSrcH = headerHeight hdr ∧ e.decBpp = headerDepth hdr ∧
    e.decW = imageWidth s.cfg hdr ∧ e.decH = imageHeight s.cfg hdr ∧ e.decRowSize = imageRowSize hdr
  source : e.decSrcOpen = false
  inputs : e.openIn = opens ∧ e.claimIn = s.claimIn ∧ e.input = s.input
  window : WindowIs e 0 0 (lastImageColumn s.cfg hdr) (lastImageRow s.cfg hdr)
  display : SameDisplayRegs s e
  events : e.events = s.events ++ ([.srcOpen h true, .srcRead 0 s.cfg.headerSize (.ok (hdr.take s.cfg.headerSize))] ++
    (releaseEvents s ++ (windowEvents s.cfg 0 0 (lastImageColumn s.cfg hdr) (lastImageRow s.cfg hdr) ++
      (es ++ [.pinCs s.cfg.csActive.opposite, .srcClose]))))
  painted : sixteenBit s = true → (bs.length + 1) / 2 ≤ imageWidth s.cfg hdr * imageHeight s.cfg hdr →
    ∀ k, k < bs.length / 2 → gramPixel e (k % imageWidth s.cfg hdr) (k / imageWidth s.cfg hdr) = streamPixel bs k
  others : NoHalfPixel s → sixteenBit s = true →
    (bs.length + 1) / 2 ≤ imageWidth s.cfg hdr * imageHeight s.cfg hdr →
    SameButFirstCells s e (imageWidth s.cfg hdr) ((bs.length + 1) / 2)
  outside : NoHalfPixel s →
    SameButFirstCells s e (imageWidth s.cfg hdr) (imageWidth s.cfg hdr * imageHeight s.cfg hdr)
  untouched : NoHalfPixel s → bs = [] → SameGram s e

/-- Of GRAM the end of the operation changes what the end of the stream does, beside the controller that took `bs`. -/
theorem gramByte_takeAbort_drawn {es : List Event} {bs : List Byte} {info : StInfo} {code : StCode} {t w : State}
    (k : Drawn es bs t w) (hcode : code.statusOnly = false) (a : Nat) :
    gramByte (takeAbort info code w) a = gramByte (closeStream (withController w t)) a := by
  have hopen : (withController w t).streamOpen = w.streamOpen := by rw [k.frame]; rfl
  rw [gramByte_takeAbort hcode]
  exact gramByte_closeStream_withController (withController w t) w hopen a

section drawn
variable {h : Byte} {hdr : List Byte} {opens : List Bool} {reads : List SrcAns} {rest : List TxAns} {es : List Event}
variable {bs : List Byte} {info : StInfo} {code : StCode} {s t w : State}
variable (ht : ImageOpened h hdr opens reads rest s t) (hf : ImageFound hdr opens s) (k : Drawn es bs t w)

include ht k in
/-- While the image is drawn, all but the buffers, the controller, the trace and the answers that wait is known. -/
theorem ImageOpened.frame : w = { s with
    busSel := true, streamOpen := true, dc := .data, decSrcW := headerWidth hdr, decSrcH := headerHeight hdr
    decBpp := headerDepth hdr, decW := imageWidth s.cfg hdr, decH := imageHeight s.cfg hdr
    decRowSize := imageRowSize hdr, decSrcOpen := true, openIn := opens
    seq := w.seq, decRow := w.decRow, decWritten := w.decWritten, hdr := w.hdr, hdrWritten := w.hdrWritten
    inbuf := w.inbuf, outbuf := w.outbuf, inbufWritten := w.inbufWritten, outbufWritten := w.outbufWritten
    ctl := w.ctl, gram := w.gram, gramEpoch := w.gramEpoch, freeCtr := w.freeCtr, readIn := w.readIn
    cancelIn := w.cancelIn, txIn := w.txIn, trace := w.trace } := by
  rw [k.frame, WindowOpened.frame ht]
  rfl

include ht hf k in
/-- Of the controller's registers the stream changes the count and the half pixel alone (R126). -/
theorem ImageOpened.drawn_ctl : w.ctl =
    { windowCtl s.cfg 0 0 (lastImageColumn s.cfg hdr) (lastImageRow s.cfg hdr) s.ctl with
      wp := w.ctl.wp, hi := w.ctl.hi } := by
  obtain ⟨v, hv, hstreamed⟩ := (ht.origin hf).streamed bs
  obtain rfl := Except.ok.inj (hv.symm.trans k.taken)
  have hregs : w.ctl = { t.ctl with wp := w.ctl.wp, hi := w.ctl.hi } := hstreamed.ctl
  exact hregs.trans (by rw [WindowOpened.ctl ht]; rfl)

include ht hf k in
/-- The end of the stream and of the source, after the events of the rows (R107, R181, R216). -/
theorem ImageOpened.ended_events (hcode : code.statusOnly = false) : (takeAbort info code w).events =
    s.events ++ ([.srcOpen h true, .srcRead 0 s.cfg.headerSize (.ok (hdr.take s.cfg.headerSize))] ++
      (releaseEvents s ++ (windowEvents s.cfg 0 0 (lastImageColumn s.cfg hdr) (lastImageRow s.cfg hdr) ++
        (es ++ [.pinCs s.cfg.csActive.opposite, .srcClose])))) := by
  have hw : w.events = t.events ++ es := by
    rw [k.frame]
    simp [State.events]
  have hrelease : releaseEvents w = [.pinCs s.cfg.csActive.opposite] := by
    rw [ht.frame k]
    rfl
  have hclose : sourceCloseEvents w = [.srcClose] := by
    rw [ht.frame k]
    rfl
  rw [takeAbort_events hcode, hw, hrelease, hclose, ht.events hf]
  simp only [List.append_assoc, List.singleton_append]

include ht hf k in
theorem ImageOpened.ended (hcode : code.statusOnly = false) :
    ImageEnded h hdr opens es bs s (takeAbort info code w) := by
  have horigin := ht.origin hf
  have hgram := gramByte_takeAbort_drawn (info := info) k hcode
  have hframe := ht.frame k
  have hctl : (takeAbort info code w).ctl =
      { windowCtl s.cfg 0 0 (lastImageColumn s.cfg hdr) (lastImageRow s.cfg hdr) s.ctl with
        wp := w.ctl.wp, hi := w.ctl.hi } := by
    rw [← ht.drawn_ctl hf k, takeAbort_frame hcode]
  have hbase : NoHalfPixel s → ∀ {n}, SameButFirstCells t (closeStream (withController w t)) (imageWidth s.cfg hdr) n →
      SameButFirstCells s (takeAbort info code w) (imageWidth s.cfg hdr) n := fun hhalf n hsame a ha => by
    rw [hgram, hsame a ha, ht.sameGram hhalf]
  have hpainted := fun h16 hfits => horigin.painted (ht.sixteenBit_eq.trans h16) hfits k.taken
  refine
    { cfg := ?_, driver := ?_, released := takeAbort_busReleased hcode ?_, registers := ?_, source := ?_, inputs := ?_
      window := ?_, display := ?_, events := ht.ended_events hf k hcode, painted := fun h16 hfits k' hk => ?_
      others := fun hhalf h16 hfits => hbase hhalf (hpainted h16 hfits).2
      outside := fun hhalf => hbase hhalf (horigin.sameOutside k.taken)
      untouched := fun hhalf hbs a => ?_ }
  · rw [takeAbort_frame hcode, hframe]
  · rw [takeAbort_frame hcode, hframe]
    exact ⟨hf.ready, rfl, rfl⟩
  · rw [hframe]
    exact nofun
  · rw [takeAbort_frame hcode, hframe]
    exact ⟨rfl, rfl, rfl, rfl, rfl, rfl⟩
  · rw [takeAbort_frame hcode]
  · rw [takeAbort_frame hcode, hframe]
    exact ⟨rfl, rfl, rfl⟩
  · rw [WindowIs, hctl]
    exact ⟨rfl, rfl, rfl, rfl⟩
  · rw [SameDisplayRegs, hctl]
    exact ⟨rfl, rfl, rfl, rfl, rfl⟩
  · obtain ⟨hcells, -⟩ := hpainted h16 hfits
    rw [gramPixel, hgram, hgram]
    exact hcells k' hk
  · have hsame : t = withController w t := by
      have htaken := k.taken
      rw [hbs] at htaken
      exact Except.ok.inj htaken
    rw [hgram, ← hsame, sameGram_closeStream (fun _ => horigin.whole), ht.sameGram hhalf]

/-- The answers that wait, and the row, are as the last row left them. -/
structure SameProgress (s t : State) : Prop where
  readIn : t.readIn = s.readIn
  cancelIn : t.cancelIn = s.cancelIn
  txIn : t.txIn = s.txIn
  decRow : t.decRow = s.decRow

theorem takeAbort_sameProgress (hcode : code.statusOnly = false) (s : State) :
    SameProgress s (takeAbort info code s) := by
  rw [takeAbort_frame hcode]
  exact ⟨rfl, rfl, rfl, rfl⟩

/-- The abort sequence finds a stream that a failed transfer has closed (R106, R216). -/
theorem takeAbort_closeStream (hcode : code.statusOnly = false) (s : State) :
    takeAbort info code (closeStream s) = takeAbort info code s := by
  simp only [takeAbort, hcode, closeStream_closed _ (closeStream_streamOpen s), Bool.false_eq_true, if_false]

include ht hf k in
/-- DECODE_BMP where a row raises, with its stream still open or closed by a failed transfer (R106, R216). -/
theorem ImageOpened.stopped {reason : Option Reason} {detail : Detail} {w' : State}
    (hread : s.readIn = .data hdr :: reads) (hcode : code.statusOnly = false) (hw' : w' = w ∨ w' = closeStream w)
    (hdraw : drawImage (rowSizeSet hdr (headerTaken hdr reads (sourceOpened h opens s))) =
      .error (.raise code reason detail) w') :
    ∃ e, exec (.decodeBmp h) s = .next e ∧ EndedWith e code ⟨some .decodeBmp, some h, reason, detail⟩ ∧
      ImageEnded h hdr opens es bs s e ∧ SameProgress w e := by
  have hexec := exec_decodeBmp_raise hf hread hdraw
  have hend : takeAbort ⟨some .decodeBmp, some h, reason, detail⟩ code w' =
      takeAbort ⟨some .decodeBmp, some h, reason, detail⟩ code w := by
    rcases hw' with rfl | rfl
    · rfl
    · exact takeAbort_closeStream hcode w
  rw [hend] at hexec
  exact ⟨_, hexec, takeAbort_endedWith hcode, ht.ended hf k hcode, takeAbort_sameProgress hcode w⟩

end drawn

end Sys2Proof.Proofs
end

section
/-! PROOFS. The statements of spec/44_bitmap_decoder.md on an accepted image (R181-R196): drawn whole, cancelled after a row,
stopped at a row's read, and stopped at any of its transfers. -/

namespace Sys2Proof.Proofs

open Sys2Proof.Machine Sys2Proof.Safety

/-! ## What the events of the rows show -/

section events
variable (c : Config) (hdr : List Byte) (rows : Nat → List Byte) (n : Nat)

/-- The rows on the bus view are their stream bytes: the source is not seen there (R40, R190). -/
theorem itemsOf_rowsEvents (es : List Event) : itemsOf c .data (rowsEvents c hdr rows n ++ es) =
    (rowsStream c.swapRb (imageWidth c hdr) n rows).map itemD ++ itemsOf c .data es := by
  induction n generalizing es with
  | zero => rfl
  | succ n ih =>
    have hrow : itemsOf c .data (rowEvents c hdr n (rows n) ++ es) =
        (rowStream c.swapRb (imageWidth c hdr) (rows n)).map itemD ++ itemsOf c .data es :=
      itemsOf_sentEvents c .data es (rowStream c.swapRb (imageWidth c hdr) (rows n))
    rw [rowsEvents_succ, List.append_assoc, ih, hrow, rowsStream_succ, List.map_append, List.append_assoc]

theorem length_txEvents_rowsEvents : (txEvents (rowsEvents c hdr rows n)).length = 2 * (n * imageWidth c hdr) := by
  induction n with
  | zero => rw [Nat.zero_mul]; rfl
  | succ n ih =>
    have hrow : (txEvents (rowEvents c hdr n (rows n))).length = 2 * imageWidth c hdr :=
      (length_txEvents_sentEvents _).trans (length_rowStream _ _ _)
    rw [rowsEvents_succ, txEvents_append, List.length_append, ih, hrow, Nat.succ_mul n]
    omega

theorem sourceEvents_append (es fs : List Event) : sourceEvents (es ++ fs) = sourceEvents es ++ sourceEvents fs :=
  List.filter_append ..

theorem sourceEvents_sentEvents (bs : List Byte) : sourceEvents (sentEvents bs) = [] := by
  refine List.filter_eq_nil_iff.2 fun e he => ?_
  obtain ⟨b, -, rfl⟩ := List.mem_map.1 he
  exact Bool.false_ne_true

/-- The rows at the source port are their reads (R188, R196). -/
theorem sourceEvents_rowsEvents : sourceEvents (rowsEvents c hdr rows n) = (List.range n).map fun r =>
    Event.srcRead (imageRowOffset c hdr r) (imageRowSize hdr) (.ok ((rows r).take (imageRowSize hdr))) := by
  induction n with
  | zero => rfl
  | succ n ih =>
    have hrow : sourceEvents (rowEvents c hdr n (rows n)) =
        [.srcRead (imageRowOffset c hdr n) (imageRowSize hdr) (.ok ((rows n).take (imageRowSize hdr)))] :=
      congrArg (List.cons _) (sourceEvents_sentEvents _)
    rw [rowsEvents_succ, sourceEvents_append, ih, hrow, List.range_succ, List.map_append]
    rfl

end events

section ended
variable {h : Byte} {hdr : List Byte} {opens : List Bool} {es : List Event} {bs xs : List Byte} {s e : State}
variable {rows : Nat → List Byte} {n : Nat}

/-- The bus view of an image that ends with events whose bus view is `bs`. -/
theorem ImageEnded.busView (he : ImageEnded h hdr opens es bs s e)
    (hitems : ∀ fs, itemsOf s.cfg .data (es ++ fs) = bs.map itemD ++ itemsOf s.cfg .data fs) :
    e.busView = s.busView ++ releaseItems s ++
      windowItems s.cfg 0 0 (lastImageColumn s.cfg hdr) (lastImageRow s.cfg hdr) ++ bs.map itemD ++ [.desel] := by
  have hview := busView_of_events he.events he.cfg
  have hsource : ∀ m fs, itemsOf s.cfg m
      ([.srcOpen h true, .srcRead 0 s.cfg.headerSize (.ok (hdr.take s.cfg.headerSize))] ++ fs) = itemsOf s.cfg m fs :=
    fun _ _ => rfl
  rw [hsource, itemsOf_releaseEvents, itemsOf_windowEvents, hitems, itemsOf_release] at hview
  rw [hview]
  simp only [List.append_assoc]
  rfl

/-- The rows that came whole stand on the panel (R191-R193). -/
theorem ImageEnded.rowsPainted (he : ImageEnded h hdr opens es bs s e)
    (hbs : bs = rowsStream s.cfg.swapRb (imageWidth s.cfg hdr) n rows ++ xs)
    (hfits : (bs.length + 1) / 2 ≤ imageWidth s.cfg hdr * imageHeight s.cfg hdr) (h16 : sixteenBit s = true) :
    ∀ i r, i < imageWidth s.cfg hdr → r < n → gramPixel e i r = rowPixel s.cfg.swapRb (rows r) i := by
  intro i r hi hr
  have hlt : r * imageWidth s.cfg hdr + i < n * imageWidth s.cfg hdr :=
    calc r * imageWidth s.cfg hdr + i < (r + 1) * imageWidth s.cfg hdr := by rw [Nat.succ_mul]; omega
      _ ≤ n * imageWidth s.cfg hdr := Nat.mul_le_mul_right _ hr
  have hlen : bs.length = 2 * (n * imageWidth s.cfg hdr) + xs.length := by rw [hbs, List.length_append, length_rowsStream]
  have hcell := he.painted h16 hfits (r * imageWidth s.cfg hdr + i) (by omega)
  rw [hbs, streamPixel_rowsStream hi hr, Nat.mul_add_mod', Nat.mod_eq_of_lt hi, Nat.mul_comm r,
    Nat.mul_add_div (by omega), Nat.div_eq_of_lt hi, Nat.add_zero] at hcell
  exact hcell

end ended

/-! ## The rows of an image (R181, R188) -/

theorem sourceAnswers_succ (hdr : List Byte) (rows : Nat → List Byte) (n : Nat) (reads : List SrcAns) :
    sourceAnswers hdr rows (n + 1) reads = sourceAnswers hdr rows n (.data (rows n) :: reads) := by
  simp [sourceAnswers, List.range_succ]

section rows
variable {h : Byte} {hdr : List Byte} {opens : List Bool} {rows : Nat → List Byte} {q : Nat} {reads : List SrcAns}
variable {cancels : List Bool} {rest : List TxAns} {s : State}

/-- `q` rows drawn, the loop is at row `q` of the image. -/
theorem image_rows (hf : ImageFound hdr opens s) (hq : q < imageHeight s.cfg hdr) (hrows : RowsAnswered s.cfg hdr rows q)
    (hread : s.readIn = sourceAnswers hdr rows q reads) (hcancel : s.cancelIn = List.replicate q false ++ cancels)
    (htx : TransfersOk s (11 + 2 * imageWidth s.cfg hdr * q) rest) :
    ∃ reads' rest' t u, s.readIn = .data hdr :: reads' ∧ ImageOpened h hdr opens reads' rest' s t ∧
      drawImage (rowSizeSet hdr (headerTaken hdr reads' (sourceOpened h opens s))) =
        rowLoop (imageHeight s.cfg hdr - q) q u ∧
      Drawn (rowsEvents s.cfg hdr rows q) (rowsStream s.cfg.swapRb (imageWidth s.cfg hdr) q rows) t u ∧
      Drawing hdr u ∧ u.cfg = s.cfg ∧ u.readIn = reads ∧ u.cancelIn = cancels ∧ u.txIn = rest := by
  obtain ⟨-, hpanel, -⟩ := hf.size
  rw [TransfersOk, List.replicate_add, List.append_assoc] at htx
  obtain ⟨t, hbody, ht, htreads, htcancels, httx⟩ := image_opens (h := h)
    (reads := ((List.range q).map fun r => SrcAns.data (rows r)) ++ reads) hf htx
  obtain ⟨u, hloop, hdrawn, hreads, hcancels, htxs⟩ := rowLoop_rows ht.cfg (ht.drawing hf) hpanel hq hrows.2 htreads
    (htcancels.trans hcancel) httx
  refine ⟨((List.range q).map fun r => SrcAns.data (rows r)) ++ reads, _, t, u, hread, ht, ?_, hdrawn,
    (ht.drawing hf).drawn hdrawn, hdrawn.cfg.trans ht.cfg, hreads, hcancels, htxs⟩
  rw [drawImage_found, op_bind]
  simp only [hbody]
  exact hloop

/-- `q` rows drawn, and row `q` as well. -/
theorem image_row (hf : ImageFound hdr opens s) (hq : q < imageHeight s.cfg hdr)
    (hrows : RowsAnswered s.cfg hdr rows (q + 1)) (hread : s.readIn = sourceAnswers hdr rows (q + 1) reads)
    (hcancel : s.cancelIn = List.replicate q false ++ cancels)
    (htx : TransfersOk s (11 + 2 * imageWidth s.cfg hdr * (q + 1)) rest) :
    ∃ reads' rest' t u v, s.readIn = .data hdr :: reads' ∧ ImageOpened h hdr opens reads' rest' s t ∧
      drawImage (rowSizeSet hdr (headerTaken hdr reads' (sourceOpened h opens s))) =
        rowLoop (imageHeight s.cfg hdr - q) q u ∧
      doRow q u = .ok () v ∧
      Drawn (rowsEvents s.cfg hdr rows (q + 1)) (rowsStream s.cfg.swapRb (imageWidth s.cfg hdr) (q + 1) rows) t v ∧
      v.readIn = reads ∧ v.cancelIn = cancels ∧ v.txIn = rest ∧ v.decRow = q := by
  obtain ⟨-, hpanel, -⟩ := hf.size
  obtain ⟨-, hlens⟩ := hrows
  rw [sourceAnswers_succ] at hread
  rw [TransfersOk, Nat.mul_succ, ← Nat.add_assoc, List.replicate_add, List.append_assoc] at htx
  obtain ⟨reads', rest', t, u, hread', ht, hdraw, hdrawn, hdrawing, hcfg, hureads, hucancels, hutx⟩ :=
    image_rows (h := h) hf hq ⟨hq.le, fun r hr => hlens r (by omega)⟩ hread hcancel htx
  obtain ⟨v, hrow, hrowDrawn, hvreads, hvcancels, hvtx, hvrow⟩ := doRow_ok (r := q) (rest := rest) hdrawing
    (hcfg.symm ▸ hpanel) hureads (hlens q (by omega)) (hcfg.symm ▸ hutx)
  rw [hcfg] at hrowDrawn
  refine ⟨reads', rest', t, u, v, hread', ht, hdraw, hrow, ?_, hvreads, hvcancels.trans hucancels, hvtx, hvrow⟩
  rw [rowsEvents_succ, rowsStream_succ]
  exact hdrawn.trans hrowDrawn

end rows

/-! ## The image drawn whole (R181, R191, R196) -/

/-- DECODE_BMP with every answer good draws all the rows and returns. -/
theorem decode_completes {h : Byte} {hdr : List Byte} {opens : List Bool} {rows : Nat → List Byte} {reads : List SrcAns}
    {cancels : List Bool} {rest : List TxAns} {s : State} (hf : ImageFound hdr opens s)
    (hrows : RowsAnswered s.cfg hdr rows (imageHeight s.cfg hdr))
    (hread : s.readIn = sourceAnswers hdr rows (imageHeight s.cfg hdr) reads)
    (hcancel : s.cancelIn = List.replicate (imageHeight s.cfg hdr - 1) false ++ cancels)
    (htx : TransfersOk s (11 + 2 * imageWidth s.cfg hdr * imageHeight s.cfg hdr) rest) :
    ∃ e, exec (.decodeBmp h) s = .next e ∧ ReturnedOk e ∧
      ImageEnded h hdr opens (rowsEvents s.cfg hdr rows (imageHeight s.cfg hdr))
        (rowsStream s.cfg.swapRb (imageWidth s.cfg hdr) (imageHeight s.cfg hdr) rows) s e ∧
      e.readIn = reads ∧ e.cancelIn = cancels ∧ e.txIn = rest ∧ e.decRow = imageHeight s.cfg hdr - 1 := by
  obtain ⟨-, -, hpos, -⟩ := hf.size
  obtain ⟨n, hn⟩ : ∃ n, imageHeight s.cfg hdr = n + 1 := ⟨_, (Nat.sub_add_cancel hpos).symm⟩
  rw [hn] at hrows hread hcancel htx ⊢
  obtain ⟨reads', rest', t, u, v, hread', ht, hdraw, hrow, hdrawn, hreads, hcancels, htxs, hrowReg⟩ :=
    image_row (h := h) hf (by omega) hrows hread hcancel htx
  have hlast : rowLoop (imageHeight s.cfg hdr - n) n u = .ok () v := by
    rw [hn, Nat.add_sub_cancel_left]
    exact hrow
  have hdone := hdrawn.trans (es' := []) (bs' := []) (u := setSeq .bmpDone v) ⟨rfl, List.Subset.refl _, rfl⟩
  rw [List.append_nil, List.append_nil] at hdone
  have hsame := takeAbort_sameProgress (info := .empty) (code := .ok) rfl (setSeq .bmpDone v)
  exact ⟨_, exec_decodeBmp_ok hf hread' (hdraw.trans hlast), takeAbort_endedWith rfl, ht.ended hf hdone rfl,
    hsame.readIn.trans hreads, hsame.cancelIn.trans hcancels, hsame.txIn.trans htxs, hsame.decRow.trans hrowReg⟩

/-- Settles O48: the registers and lines are those of the end of the rows, the events those of its parts. -/
theorem decodeCompletes : Obligations.DecodeCompletes := by
  intro h s opens hdr rows reads cancels rest hready hw hb hopen haccepted hrows hread hcancel htx
  obtain ⟨e, hexec, hok, he, hreads, hcancels, htxs, hrow⟩ := decode_completes (h := h)
    ⟨hready, hw, hb, hopen, haccepted⟩ hrows hread hcancel htx
  obtain ⟨-, -, -, hdepth, -⟩ := haccepted
  obtain ⟨hdrv, hdc, hrst⟩ := he.driver
  obtain ⟨hsrcW, hsrcH, hbpp, hwidth, hheight, hsize⟩ := he.registers
  obtain ⟨hopens, hclaim, hinput⟩ := he.inputs
  refine ⟨e, hexec, hok, ?_, he.busView (itemsOf_rowsEvents _ _ _ _), hdrv, he.released, hdc, hrst, hsrcW, hsrcH,
    hbpp.trans hdepth, hwidth, hheight, hsize, hrow, he.source, he.window, he.display, he.cfg, hopens, hreads, hcancels, htxs,
    hclaim, hinput⟩
  rw [he.events]
  simp only [List.append_assoc]

/-- Settles O49: of the events of O48, those of the source port. -/
theorem decodeSinglePass : Obligations.DecodeSinglePass := by
  intro h s opens hdr rows reads cancels rest hready hw hb hopen haccepted hrows hread hcancel htx
  obtain ⟨e, hexec, ⟨hcode, -⟩, he, -⟩ := decode_completes (h := h)
    ⟨hready, hw, hb, hopen, haccepted⟩ hrows hread hcancel htx
  have hrelease : sourceEvents (releaseEvents s) = [] := by
    unfold releaseEvents
    split <;> rfl
  have hwindow : ∀ x y, sourceEvents (windowEvents s.cfg 0 0 x y) = [] := fun _ _ => rfl
  have hopen : ∀ ans, sourceEvents [.srcOpen h true, .srcRead 0 s.cfg.headerSize ans] =
      [.srcOpen h true, .srcRead 0 s.cfg.headerSize ans] := fun _ => rfl
  have hclose : ∀ lvl, sourceEvents [.pinCs lvl, .srcClose] = [.srcClose] := fun _ => rfl
  refine ⟨e, hexec, hcode, ?_⟩
  rw [he.events]
  simp only [sourceEvents_append, hopen, hrelease, hwindow, hclose, sourceEvents_rowsEvents, decodeSourceEvents,
    List.nil_append, List.append_assoc]

/-- Settles O50: the stream of the rows has one whole pixel for each cell of the image's window. -/
theorem decodeDrawsImage : Obligations.DecodeDrawsImage := by
  intro h s opens hdr rows reads cancels rest hready hw hb hhalf h16 hopen haccepted hrows hread hcancel htx
  obtain ⟨e, hexec, ⟨hcode, -⟩, he, -⟩ := decode_completes (h := h)
    ⟨hready, hw, hb, hopen, haccepted⟩ hrows hread hcancel htx
  have hall : rowsStream s.cfg.swapRb (imageWidth s.cfg hdr) (imageHeight s.cfg hdr) rows =
      rowsStream s.cfg.swapRb (imageWidth s.cfg hdr) (imageHeight s.cfg hdr) rows ++ [] := (List.append_nil _).symm
  have hfits : ((rowsStream s.cfg.swapRb (imageWidth s.cfg hdr) (imageHeight s.cfg hdr) rows).length + 1) / 2 ≤
      imageWidth s.cfg hdr * imageHeight s.cfg hdr := by
    rw [length_rowsStream, Nat.mul_comm (imageHeight s.cfg hdr)]
    omega
  refine ⟨e, hexec, hcode, he.rowsPainted hall hfits h16, fun a ha => he.outside hhalf a fun k hk => ?_⟩
  have hpos : 0 < imageWidth s.cfg hdr := Nat.pos_of_mul_pos_right (Nat.zero_lt_of_lt hk)
  exact ha _ _ (Nat.mod_lt _ hpos) (Nat.div_lt_of_lt_mul hk)

/-! ## The image cut off between two rows, or within one (R188, R190, R192, R193) -/

theorem sameButFirstCells_mono {s t : State} {w m n : Nat} (h : SameButFirstCells s t w m) (hmn : m ≤ n) :
    SameButFirstCells s t w n := fun a ha => h a fun k hk => ha k (hk.trans_le hmn)

section stopped
variable {h : Byte} {hdr : List Byte} {opens : List Bool} {es : List Event} {xs : List Byte} {s e : State}
variable {rows : Nat → List Byte} {q : Nat}

/-- With 16-bit color `q` rows and the bytes `xs` of the next leave the rows on the panel, and no cell after the last pixel of
`xs` changes (R191-R193, 90_conflicts.md C7). -/
theorem ImageEnded.cells (he : ImageEnded h hdr opens es
      (rowsStream s.cfg.swapRb (imageWidth s.cfg hdr) q rows ++ xs) s e)
    (hq : q < imageHeight s.cfg hdr) (hxs : xs.length ≤ 2 * imageWidth s.cfg hdr) (h16 : sixteenBit s = true) :
    (∀ i r, i < imageWidth s.cfg hdr → r < q → gramPixel e i r = rowPixel s.cfg.swapRb (rows r) i) ∧
      (NoHalfPixel s →
        SameButFirstCells s e (imageWidth s.cfg hdr) (imageWidth s.cfg hdr * q + (xs.length + 1) / 2)) := by
  have hrows : (q + 1) * imageWidth s.cfg hdr ≤ imageWidth s.cfg hdr * imageHeight s.cfg hdr := by
    rw [Nat.mul_comm]
    exact Nat.mul_le_mul_left _ hq
  have hlen : ((rowsStream s.cfg.swapRb (imageWidth s.cfg hdr) q rows ++ xs).length + 1) / 2 =
      imageWidth s.cfg hdr * q + (xs.length + 1) / 2 := by
    rw [List.length_append, length_rowsStream, Nat.mul_comm q]
    omega
  have hfits : imageWidth s.cfg hdr * q + (xs.length + 1) / 2 ≤ imageWidth s.cfg hdr * imageHeight s.cfg hdr := by
    rw [Nat.succ_mul, Nat.mul_comm q] at hrows
    omega
  exact ⟨he.rowsPainted rfl (hlen.trans_le hfits) h16, fun hhalf => hlen ▸ he.others hhalf h16 (hlen.trans_le hfits)⟩

end stopped

/-- Settles O51: the loop stops at the cancel point after row `q`. -/
theorem decodeCancelled : Obligations.DecodeCancelled := by
  intro h s opens hdr rows q reads cancels rest hready hw hb hopen haccepted hq hrows hread hcancel htx
  have hf : ImageFound hdr opens s := ⟨hready, hw, hb, hopen, haccepted⟩
  obtain ⟨reads', rest', t, u, v, hread', ht, hdraw, hrow, hdrawn, hreads, hcancels, htxs, -⟩ :=
    image_row (h := h) hf (by omega) hrows hread hcancel htx
  obtain ⟨n, hn⟩ := Nat.exists_eq_add_of_lt hq
  rw [show imageHeight s.cfg hdr - q = n + 2 by omega, rowLoop_of_doRow hrow hcancels, if_pos rfl] at hdraw
  have hall := hdrawn.trans (drawn_cancelPoint cancels v)
  rw [List.append_nil] at hall
  obtain ⟨e, hexec, hend, he, hsame⟩ := ht.stopped hf hall hread' rfl (.inl rfl) hdraw
  obtain ⟨hdrv, -⟩ := he.driver
  have hcells := he.cells hq (Nat.zero_le _)
  rw [List.append_nil] at he
  exact ⟨e, hexec, hend, he.busView (itemsOf_rowsEvents _ _ _ _), hdrv, he.released, he.source, hsame.cancelIn,
    hsame.readIn.trans hreads, hsame.txIn.trans htxs, fun h16 => (hcells h16).1, he.outside,
    fun hhalf h16 => (hcells h16).2 hhalf⟩

/-- Settles O52: the loop stops at the read of row `q`, before any byte of it is sent. -/
theorem decodeRowReadError : Obligations.DecodeRowReadError := by
  intro h s opens hdr rows q bad reads cancels rest hready hw hb hopen haccepted hq hrows hbad hread hcancel htx
  have hf : ImageFound hdr opens s := ⟨hready, hw, hb, hopen, haccepted⟩
  obtain ⟨reads', rest', t, u, hread', ht, hdraw, hdrawn, hdrawing, hcfg, hreads, -, htxs⟩ :=
    image_rows (h := h) hf hq hrows hread hcancel htx
  obtain ⟨n, hn⟩ := Nat.exists_eq_add_of_lt hq
  rw [show imageHeight s.cfg hdr - q = n + 1 by omega, rowLoop_of_doRow_error (doRow_unread hdrawing hreads hbad), hcfg]
    at hdraw
  have hall := hdrawn.trans (drawn_rowAnswered (hdr := hdr) (r := q) (ans := bad) (reads := reads))
  obtain ⟨e, hexec, hend, he, hsame⟩ := ht.stopped hf hall hread' rfl (.inl rfl) hdraw
  obtain ⟨hdrv, -⟩ := he.driver
  have hcells := he.cells hq (Nat.zero_le _)
  rw [List.append_nil] at he
  have hitems : ∀ fs, itemsOf s.cfg .data (rowsEvents s.cfg hdr rows q ++ [rowRead u.cfg hdr q bad] ++ fs) =
      (rowsStream s.cfg.swapRb (imageWidth s.cfg hdr) q rows).map itemD ++ itemsOf s.cfg .data fs := fun fs => by
    rw [List.append_assoc, itemsOf_rowsEvents]
    rfl
  refine ⟨e, hexec, hend, he.busView hitems, hdrv, he.released, he.source, hsame.readIn, hsame.txIn.trans htxs,
    fun h16 => (hcells h16).1, he.outside, fun hhalf hor => ?_⟩
  rcases hor with h16 | rfl
  · exact (hcells h16).2 hhalf
  · exact fun a _ => he.untouched hhalf rfl a

/-! ## DECODE_BMP with any transfer failing (R106, R144, R190) -/

/-- The transfers of an image cut off at stream byte `j` of row `q`: those of the window, of the rows before, and the row's. -/
theorem ImageEnded.failedTransfers {h : Byte} {hdr : List Byte} {opens : List Bool} {rows : Nat → List Byte} {q j : Nat}
    {bs xs : List Byte} {b : Byte} {ev : Event} {s e : State} (hev : isTxEvent ev = false) (hxs : xs.length = j)
    (he : ImageEnded h hdr opens (rowsEvents s.cfg hdr rows q ++ ev :: (sentEvents xs ++ [.tx b false])) bs s e) :
    (txEvents e.events).length = (txEvents s.events).length + 11 + 2 * imageWidth s.cfg hdr * q + j + 1 := by
  have hopen : ∀ a, (txEvents [.srcOpen h true, .srcRead 0 s.cfg.headerSize a]).length = 0 := fun _ => rfl
  have hclose : ∀ lvl, (txEvents [.pinCs lvl, .srcClose]).length = 0 := fun _ => rfl
  have hread : txEvents (ev :: (sentEvents xs ++ [.tx b false])) = txEvents (sentEvents xs ++ [.tx b false]) :=
    List.filter_cons_of_neg (by simp [hev])
  have hlast : (txEvents [.tx b false]).length = 1 := rfl
  rw [he.events]
  simp only [txEvents_append, hread, List.length_append, hopen, length_txEvents_releaseEvents, length_txEvents_windowEvents,
    length_txEvents_rowsEvents, length_txEvents_sentEvents, hlast, hclose, hxs, Nat.mul_assoc, Nat.mul_comm q]
  omega

/-- DECODE_BMP with a byte of row `q` failing (R190). -/
theorem decode_rowFails {h : Byte} {hdr : List Byte} {opens : List Bool} {rows : Nat → List Byte} {q j : Nat} {a : TxAns}
    {reads : List SrcAns} {cancels : List Bool} {rest : List TxAns} {s : State} (hf : ImageFound hdr opens s)
    (hq : q < imageHeight s.cfg hdr) (hj : j < 2 * imageWidth s.cfg hdr) (hrows : RowsAnswered s.cfg hdr rows (q + 1))
    (hread : s.readIn = sourceAnswers hdr rows (q + 1) reads) (hcancel : s.cancelIn = List.replicate q false ++ cancels)
    (htx : TransferFails s (11 + 2 * imageWidth s.cfg hdr * q + j) a rest) :
    ∃ b ev n e, exec (.decodeBmp h) s = .next e ∧
      EndedWith e .transferError ⟨some .decodeBmp, some h, some .transfer, .transfer ⟨.stream, none, j⟩⟩ ∧
      isTxEvent ev = false ∧ n ≤ j + 1 ∧
      ImageEnded h hdr opens (rowsEvents s.cfg hdr rows q ++
          ev :: (sentEvents ((rowStream s.cfg.swapRb (imageWidth s.cfg hdr) (rows q)).take j) ++ [.tx b false]))
        (rowsStream s.cfg.swapRb (imageWidth s.cfg hdr) q rows ++
          (rowStream s.cfg.swapRb (imageWidth s.cfg hdr) (rows q)).take n) s e ∧
      e.readIn = reads ∧ e.cancelIn = cancels ∧ e.txIn = rest := by
  obtain ⟨-, hpanel, -⟩ := hf.size
  obtain ⟨-, hlens⟩ := hrows
  obtain ⟨htxIn, ha⟩ := htx
  rw [sourceAnswers_succ] at hread
  rw [List.replicate_add, List.append_assoc] at htxIn
  obtain ⟨reads', rest', t, u, hread', ht, hdraw, hdrawn, hdrawing, hcfg, hreads, hcancels, htxs⟩ :=
    image_rows (h := h) hf hq ⟨hq.le, fun r hr => hlens r (by omega)⟩ hread hcancel htxIn
  obtain ⟨b, n, w, hrow, hn, hrowDrawn, hwreads, hwcancels, hwtx⟩ := doRow_failed (r := q) (rest := rest) hdrawing
    (hcfg.symm ▸ hpanel) hreads (hlens q (by omega)) (hcfg.symm ▸ hj) ⟨htxs, ha⟩
  rw [hcfg] at hrowDrawn
  obtain ⟨k, hk⟩ := Nat.exists_eq_add_of_lt hq
  rw [show imageHeight s.cfg hdr - q = k + 1 by omega, rowLoop_of_doRow_error hrow] at hdraw
  obtain ⟨e, hexec, hend, he, hsame⟩ := ht.stopped (code := .transferError) hf (hdrawn.trans hrowDrawn) hread' rfl
    (.inr rfl) hdraw
  exact ⟨b, rowRead s.cfg hdr q (.data (rows q)), n, e, hexec, hend, rfl, by omega, he, hsame.readIn.trans hwreads,
    hsame.cancelIn.trans (hwcancels.trans hcancels), hsame.txIn.trans hwtx⟩

/-- The abort sequence after a window body that failed while a source was open (R144, R216). -/
theorem windowFailed_sourceOpen {info : StInfo} {j : Nat} {rest : List TxAns} {s t e : State}
    (h : Reached KeepsDisplay (j + 1) rest (closeStream s) t)
    (he : e = takeAbort info .transferError (freeWindowRegs t)) :
    BusReleased e ∧ e.decSrcOpen = false ∧ e.openIn = s.openIn ∧ e.readIn = s.readIn ∧ e.cancelIn = s.cancelIn ∧
      e.txIn = rest ∧ (txEvents e.events).length = (txEvents s.events).length + j + 1 ∧ SameDisplayRegs s e ∧
      (NoHalfPixel s → SameGram s e) := by
  obtain ⟨⟨es, hframed, hcount⟩, hdisplay, hgram, hepoch⟩ := h
  obtain ⟨-, -, -, hopens, hreads, hcancels, -⟩ := closeStream_sameOtherInputs s
  have hclosed : (freeWindowRegs t).streamOpen = false := hframed.streamOpen.trans (closeStream_streamOpen s)
  have hevents : (freeWindowRegs t).events = s.events ++ releaseEvents s ++ es := by
    rw [← closeStream_events]
    exact hframed.events
  have hinputs : t.openIn = s.openIn ∧ t.readIn = s.readIn ∧ t.cancelIn = s.cancelIn := by
    rw [Framed] at hframed
    rw [hframed]
    exact ⟨hopens, hreads, hcancels⟩
  obtain ⟨hopens, hreads, hcancels⟩ := hinputs
  have hbus : BusReleased e := he ▸ takeAbort_busReleased rfl fun _ => hframed.busSel
  have hctl : e.ctl = (freeWindowRegs t).ctl := by rw [he, takeAbort_frame rfl]
  refine ⟨hbus, ?_, ?_, ?_, ?_, ?_, ?_, ?_, fun hhalf a => ?_⟩
  · rw [he, takeAbort_frame rfl]
  · rw [he, takeAbort_frame rfl]
    exact hopens
  · rw [he, takeAbort_frame rfl]
    exact hreads
  · rw [he, takeAbort_frame rfl]
    exact hcancels
  · rw [he, takeAbort_frame rfl]
    exact hframed.txIn
  · rw [he, takeAbort_events rfl, hevents, releaseEvents_closed hclosed]
    simp only [txEvents_append, List.length_append, length_txEvents_releaseEvents, length_txEvents_sourceCloseEvents,
      hcount]
    rfl
  · rw [SameDisplayRegs, hctl, ← closeStream_ctl s]
    exact hdisplay
  · rw [he, gramByte_takeAbort rfl, closeStream_closed _ hclosed, ← sameGram_closeStream hhalf a, gramByte, gramByte,
      ← hgram, ← hepoch]
    rfl

/-- DECODE_BMP with a transfer of its window body failing (R143, R144, R181): no row is read, and the abort sequence closes the
source. -/
theorem decode_windowFails {h : Byte} {hdr : List Byte} {opens : List Bool} {j : Nat} {a : TxAns} {reads : List SrcAns}
    {rest : List TxAns} {s : State} (hj : j < (windowTransfers s.cfg).length) (hf : ImageFound hdr opens s)
    (hread : s.readIn = .data hdr :: reads) (htx : TransferFails s j a rest) :
    ∃ t, exec (.decodeBmp h) s = .next (takeAbort
        ⟨some .decodeBmp, some h, some .transfer, .transfer ((windowTransfers s.cfg)[j])⟩ .transferError
        (freeWindowRegs t)) ∧
      Reached KeepsDisplay (j + 1) rest (closeStream (imageReady h hdr opens reads s)) t := by
  obtain ⟨t, hbody, hreached⟩ := windowBody_failed (x0 := 0) (y0 := 0) (x1 := lastImageColumn s.cfg hdr)
    (y1 := lastImageRow s.cfg hdr) (s := imageReady h hdr opens reads s) hj hf.wf hf.bus htx
  refine ⟨t, exec_decodeBmp_raise hf hread ?_, hreached⟩
  rw [drawImage_found, op_bind, hbody]
  rfl

/-- Settles O53: a byte of a row fails, or the window body fails before the rows. -/
theorem decodeRowTransferFailure : Obligations.DecodeRowTransferFailure := by
  constructor
  · intro h s opens hdr rows q j a reads cancels rest hready hw hb hopen haccepted hq hj hrows hread hcancel htx
    obtain ⟨b, ev, n, e, hexec, hend, hev, hn, he, hreads, hcancels, htxs⟩ := decode_rowFails (h := h)
      ⟨hready, hw, hb, hopen, haccepted⟩ hq hj hrows hread hcancel htx
    obtain ⟨hdrv, -⟩ := he.driver
    have hlen : ∀ m, ((rowStream s.cfg.swapRb (imageWidth s.cfg hdr) (rows q)).take m).length =
        min m (2 * imageWidth s.cfg hdr) := fun m => by rw [List.length_take, length_rowStream]
    have hcells := he.cells hq (by rw [hlen]; exact Nat.min_le_right _ _)
    exact ⟨e, hexec, hend, hdrv, he.released, he.source, hreads, htxs, hcancels,
      he.failedTransfers hev (by rw [hlen]; omega), fun h16 => (hcells h16).1, he.outside,
      fun hhalf h16 => sameButFirstCells_mono ((hcells h16).2 hhalf) (by rw [hlen]; omega)⟩
  · intro h s opens hdr j hj a reads rest hready hw hb hopen haccepted hread htx
    obtain ⟨t, hexec, hreached⟩ := decode_windowFails (h := h) hj ⟨hready, hw, hb, hopen, haccepted⟩ hread htx
    obtain ⟨hdrv, -⟩ := (settles_exec (i := .decodeBmp h) rfl hexec).driver nofun
    obtain ⟨hbus, hsrc, hopens, hreads, hcancels, hrest, hcount, hdisplay, hgram⟩ := windowFailed_sourceOpen hreached rfl
    have hsource : ∀ ans, txEvents [.srcOpen h true, .srcRead 0 s.cfg.headerSize ans] = [] := fun _ => rfl
    rw [imageReady_events, txEvents_append, hsource, List.append_nil] at hcount
    exact ⟨_, hexec, takeAbort_endedWith rfl, hdrv.trans hready, hbus, hsrc, hopens, hreads, hcancels, hrest, hcount,
      hdisplay, hgram⟩

end Sys2Proof.Proofs
end

section
/-! PROOFS. How a host operation ends, class by class of completion code (spec/60_exceptions.md R210, R212, R214, R216): which
codes an operation can raise, and what each leaves of `drv_state`. -/

namespace Sys2Proof.Proofs

open Sys2Proof.Machine Sys2Proof.Safety

/-! ## The codes that abort an operation (R212) -/

/-- The operation `i`, run at `s`, may end in the abort sequence with this code, leaving this `drv_state` (R212). -/
def AbortsAs (i : Instr) (s : State) (d : DrvState) : StCode → Prop
  | .formatError => d = .ready
  | .unsupportedFormatError => d = .ready
  | .transferError => d = .ready
  | .resourceNotFoundError => d = .ready
  | .sourceReadError => d = .ready
  | .cancelled => d = .ready
  | .initError => i = .init ∧ d = .failed
  | .windowRangeError => ∃ x0 y0 x1 y1 : Half,
      i = .setWindow x0 y0 x1 y1 ∧ s.drvState = .ready ∧ windowInRange s.cfg x0 y0 x1 y1 = false
  | .ok => False
  | .configParseError => False
  | .illegalStateError => False
  | .illegalOpError => False

/-- The raises of an operation that runs in `Ready`. -/
def RaisedReady (i : Instr) (s : State) (c : StCode) (_ : State) : Prop := AbortsAs i s .ready c

section codes
variable {i : Instr} {s : State}

theorem AbortsAs.not_statusOnly {d : DrvState} {c : StCode} (h : AbortsAs i s d c) : c.statusOnly = false := by
  cases c with
  | illegalStateError => exact h.elim
  | illegalOpError => exact h.elim
  | _ => rfl

theorem raisedReady_transferError (t : State) : RaisedReady i s .transferError t := rfl

end codes

/-! ## The window, the stream and FILL (R143, R148) -/

/-- The window body raises where its frames do, once the window registers are unspecified (R144). -/
theorem leaves_windowBody {x0 y0 x1 y1 : Half} {Q : Unit → State → Prop} {E : StCode → State → Prop} {s : State}
    (h : Leaves (windowFrames x0 y0 x1 y1) Q (fun c t => E c (freeWindowRegs t)) (closeStream s)) :
    Leaves (windowBody x0 y0 x1 y1) Q E s := by
  unfold Leaves at *
  unfold windowBody
  rcases hf : windowFrames x0 y0 x1 y1 (closeStream s) with ⟨u, t⟩ | ⟨⟨c, r, d⟩ | f, t⟩
  · rwa [hf] at h
  · rwa [hf] at h
  · trivial

section driver
variable {i : Instr} {s : State}

theorem raisedReady_windowFrames (x0 y0 x1 y1 : Half) : Within (RaisedReady i s) i (windowFrames x0 y0 x1 y1) :=
  (within_look _).bind fun _ => (within_look _).bind fun _ =>
    (within_cmdWithPayload raisedReady_transferError _ _).bind fun _ =>
      (within_cmdWithPayload raisedReady_transferError _ _).bind fun _ => within_openStream raisedReady_transferError

theorem raisedReady_windowBody (x0 y0 x1 y1 : Half) : Within (RaisedReady i s) i (windowBody x0 y0 x1 y1) := by
  intro u
  have hclose : Settles i u (closeStream u) := settles_closeStream u
  have hframes := raisedReady_windowFrames (i := i) (s := s) x0 y0 x1 y1 (closeStream u)
  refine leaves_windowBody (hframes.mono (fun _ _ ht => hclose.trans ht) ?_)
  rintro c t ⟨hc, ht⟩
  exact ⟨hc, (hclose.trans ht).trans (settles_freeWindowRegs t)⟩

theorem raisedReady_fillLoop (color : Half) (total fuel sent : Nat) :
    Within (RaisedReady i s) i (fillLoop color total fuel sent) := by
  induction fuel generalizing sent with
  | zero => exact within_ite (within_faultWith _) (within_pure _)
  | succ fuel ih =>
    refine within_ite ?_ (within_pure _)
    exact (within_update (settles_setSeq _)).bind fun _ => (within_look _).bind fun _ =>
      (within_append raisedReady_transferError _).bind fun _ => ih _

end driver

/-! ## DECODE_BMP (R181-R192) -/

section decode
variable {i : Instr} {h : Byte} {s : State}

/-- A source that does not open is ResourceNotFoundError (R181). -/
theorem raisedReady_openSource (hd : Byte) : Within (RaisedReady i s) (.decodeBmp h) (openSource hd) :=
  (within_update (settles_setSeq _)).bind fun _ => (within_srcOpen hd).bind fun _ =>
    within_ite (within_update settles_startDecode) (within_raise fun _ => rfl)

/-- A failed header read is SourceReadError, a short one FormatError (R182). -/
theorem raisedReady_readHeader : Within (RaisedReady i s) (.decodeBmp h) readHeader := by
  refine (within_look _).bind fun n => (within_srcRead 0 n).bind fun ans => ?_
  cases ans with
  | fail => exact within_raise fun _ => rfl
  | short bs => exact within_raise fun _ => rfl
  | ok bs => exact within_writeBuffer _ _ _

/-- A wrong signature is FormatError (R184). -/
theorem raisedReady_checkSignature : Within (RaisedReady i s) i checkSignature :=
  (within_readBufferByte _ _).bind fun _ => (within_readBufferByte _ _).bind fun _ =>
    within_ite (within_raise fun _ => rfl) (within_pure _)

/-- Another depth is UnsupportedFormatError (R185). -/
theorem raisedReady_checkDepth : Within (RaisedReady i s) i checkDepth :=
  (within_readDec _ _).bind fun _ => within_ite (within_raise fun _ => rfl) (within_pure _)

/-- An empty image is FormatError (R187). -/
theorem raisedReady_checkSize : Within (RaisedReady i s) i checkSize :=
  (within_readDec _ _).bind fun _ => (within_readDec _ _).bind fun _ =>
    (within_readDec _ _).bind fun _ => (within_readDec _ _).bind fun _ =>
      within_ite (within_raise fun _ => rfl) (within_pure _)

theorem raisedReady_checkImage : Within (RaisedReady (.decodeBmp h) s) (.decodeBmp h) checkImage :=
  (within_update (settles_setSeq _)).bind fun _ => raisedReady_readHeader.bind fun _ =>
    (within_update (settles_setSeq _)).bind fun _ => raisedReady_checkSignature.bind fun _ =>
      within_extractFields.bind fun _ => raisedReady_checkDepth.bind fun _ => within_clipImage.bind fun _ =>
        raisedReady_checkSize.bind fun _ => within_setRowSize

/-- A row read that fails or comes short is SourceReadError (R188). -/
theorem raisedReady_readRow (r : Nat) : Within (RaisedReady i s) (.decodeBmp h) (readRow r) := by
  refine (within_readDec _ _).bind fun _ => (within_readDec _ _).bind fun _ => (within_readDec _ _).bind fun _ =>
    (within_look _).bind fun _ => (within_srcRead _ _).bind fun ans => ?_
  cases ans with
  | fail => exact within_raise fun _ => rfl
  | short bs => exact within_raise fun _ => rfl
  | ok bs => exact within_writeBuffer _ _ _

theorem raisedReady_handOff : Within (RaisedReady i s) i handOff :=
  (within_readDec _ _).bind fun _ => (within_readBuffer _ _ _).bind fun _ => within_append raisedReady_transferError _

theorem raisedReady_doRow (r : Nat) : Within (RaisedReady (.decodeBmp h) s) (.decodeBmp h) (doRow r) :=
  (within_update (settles_setSeq _)).bind fun _ =>
    .bind (within_writeDec fun _ => ⟨rfl, id⟩) fun _ => (raisedReady_readRow r).bind fun _ =>
      ((within_readDec _ _).bind fun _ => within_convertPixels _ _).bind fun _ => raisedReady_handOff

/-- A cancel is Cancelled (R192). -/
theorem raisedReady_cancelPoint (r : Nat) : Within (RaisedReady i s) i (cancelPoint r) :=
  within_sampleCancel.bind fun _ => within_ite (within_raise fun _ => rfl) (within_pure _)

theorem raisedReady_rowLoop (n r : Nat) : Within (RaisedReady (.decodeBmp h) s) (.decodeBmp h) (rowLoop n r) := by
  induction n, r using rowLoop.induct with
  | case1 r => exact within_pure _
  | case2 r => exact raisedReady_doRow r
  | case3 n r ih => exact (raisedReady_doRow r).bind fun _ => (raisedReady_cancelPoint r).bind fun _ => ih

theorem raisedReady_drawImage : Within (RaisedReady (.decodeBmp h) s) (.decodeBmp h) drawImage :=
  (within_update (settles_setSeq _)).bind fun _ => (within_readDec _ _).bind fun _ =>
    (within_readDec _ _).bind fun _ => (raisedReady_windowBody _ _ _ _).bind fun _ => raisedReady_rowLoop _ _

end decode

/-! ## The bodies of the operations -/

/-- The raises of the operation `i`, run at `s`, that the abort sequence ends. -/
def AbortRaised (i : Instr) (s : State) (c : StCode) (t : State) : Prop := AbortsAs i s t.drvState c

section bodies
variable {i : Instr} {s : State}

/-- An operation other than INIT keeps the `Ready` it runs in (R21). -/
theorem Within.abortRaised {x : Op (Option Half)} (h : Within (RaisedReady i s) i x) (hi : i ≠ .init)
    (hready : s.drvState = .ready) : Behaves (AbortRaised i s) i x s := by
  refine (h s).mono (fun _ _ h => h) ?_
  rintro c t ⟨hc, ht⟩
  have hdrv : t.drvState = .ready := (ht.driver hi).1.trans hready
  have habort : AbortRaised i s c t := by
    rw [AbortRaised, hdrv]
    exact hc
  exact .inr ⟨habort.not_statusOnly, habort, ht⟩

/-- An operation that needs `Ready` (R22) and does `x` there. -/
theorem abortRaised_requireReady {x : Op (Option Half)}
    (h : s.drvState = .ready → Behaves (AbortRaised i s) i x s) :
    Behaves (AbortRaised i s) i (requireReady >>= fun _ => x) s := by
  rw [Behaves, leaves_bind]
  exact leaves_requireReady h (.inl ⟨rfl, rfl⟩)

theorem abortRaised_initBody : Behaves (AbortRaised .init s) .init initBody s := by
  refine behaves_initBody.mono (fun _ _ h => h) ?_
  rintro c t (h | ⟨hc, ⟨rfl, hfailed⟩, ht⟩)
  · exact .inl h
  · exact .inr ⟨hc, ⟨rfl, hfailed⟩, ht⟩

/-- SET_WINDOW alone raises WindowRangeError, at once (R143). -/
theorem abortRaised_setWindowBody (x0 y0 x1 y1 : Half) :
    Behaves (AbortRaised (.setWindow x0 y0 x1 y1) s) (.setWindow x0 y0 x1 y1) (setWindowBody x0 y0 x1 y1) s := by
  refine abortRaised_requireReady fun hready => ?_
  rw [Behaves, leaves_bind]
  cases hr : windowInRange s.cfg x0 y0 x1 y1 with
  | true =>
    have hcheck : requireWindow x0 y0 x1 y1 s = .ok () s := if_pos hr
    rw [Leaves, hcheck]
    exact ((raisedReady_windowBody x0 y0 x1 y1).bind fun _ => within_pure _).abortRaised nofun hready
  | false =>
    have hcheck : requireWindow x0 y0 x1 y1 s = .error (.raise .windowRangeError none (.window x0 y0 x1 y1)) s :=
      if_neg (Bool.eq_false_iff.1 hr)
    rw [Leaves, hcheck]
    exact .inr ⟨rfl, ⟨x0, y0, x1, y1, rfl, hready, hr⟩, .refl _ s⟩

theorem abortRaised_writePixelsBody (bytes : List Byte) :
    Behaves (AbortRaised (.writePixels bytes) s) (.writePixels bytes) (writePixelsBody bytes) s := by
  refine abortRaised_requireReady fun hready => ?_
  rw [Behaves, leaves_bind]
  exact leaves_requireStream
    (fun _ => ((within_append raisedReady_transferError bytes).bind fun _ => within_pure _).abortRaised nofun hready)
    (.inl ⟨rfl, rfl⟩)

theorem abortRaised_endWriteBody : Behaves (AbortRaised .endWrite s) .endWrite endWriteBody s :=
  abortRaised_requireReady
    (((within_update settles_closeStream).bind fun _ => within_pure _).abortRaised nofun)

theorem abortRaised_fillBody (color : Half) : Behaves (AbortRaised (.fill color) s) (.fill color) (fillBody color) s :=
  abortRaised_requireReady (Within.abortRaised
    ((within_update (settles_setSeq _)).bind fun _ => (within_look _).bind fun _ => (within_look _).bind fun _ =>
      (raisedReady_windowBody _ _ _ _).bind fun _ => (within_look _).bind fun _ =>
        (raisedReady_fillLoop _ _ _ _).bind fun _ => (within_update (settles_setSeq _)).bind fun _ =>
          (within_update settles_closeStream).bind fun _ => within_pure _) nofun)

theorem abortRaised_decodeBmpBody (h : Byte) :
    Behaves (AbortRaised (.decodeBmp h) s) (.decodeBmp h) (decodeBmpBody h) s :=
  abortRaised_requireReady (Within.abortRaised
    ((raisedReady_openSource h).bind fun _ => raisedReady_checkImage.bind fun _ => raisedReady_drawImage.bind fun _ =>
      (within_update (settles_setSeq _)).bind fun _ => (within_update settles_closeStream).bind fun _ =>
        (within_update settles_closeSource).bind fun _ => within_pure _) nofun)

end bodies

/-! ## Whole operations -/

/-- The three ways a host operation `i`, run at `s`, ends (R13, R214, R216). -/
inductive OperationEnds (i : Instr) (s t : State) : Prop
  /-- It returns (R13). -/
  | returned (hcode : t.stCode = .ok)
  /-- It reports an illegal use and changes nothing (R214). -/
  | reported {info : StInfo} {c : StCode} (hcode : c.statusOnly = true) (h : t = reportStatus info c s)
  /-- It aborts with its stream closed (R216). -/
  | aborted (hclosed : t.streamOpen = false) (h : AbortsAs i s t.drvState t.stCode)

section ends
variable {i : Instr} {s t : State}

theorem operationEnds_runOperation {op : OpName} {src : Option Byte} {body : Op (Option Half)}
    (hb : Behaves (AbortRaised i s) i body s) (hrun : runOperation op src body s = .next t) : OperationEnds i s t := by
  rcases runOperation_cases op src body s with ⟨r, u, hu, e⟩ | ⟨c, rs, d, u, hu, e⟩ | ⟨f, u, hu, e⟩
  · obtain rfl : returnOk r u = t := by simpa [hrun] using e.symm
    exact .returned rfl
  · obtain rfl : takeAbort ⟨some op, src, rs, d⟩ c u = t := by simpa [hrun] using e.symm
    rcases hb.of_raise hu with ⟨hc, rfl⟩ | ⟨hc, habort, -⟩
    · exact .reported hc (takeAbort_statusOnly_eq hc)
    · obtain ⟨hclosed, -⟩ := takeAbort_closes (info := ⟨some op, src, rs, d⟩) (s := u) hc
      obtain ⟨hcode, -⟩ := takeAbort_status ⟨some op, src, rs, d⟩ c u
      refine .aborted hclosed ?_
      rw [takeAbort_drvState, hcode]
      exact habort
  · simp [hrun] at e

theorem operationEnds_exec (hi : isHostOp i = true) (h : exec i s = .next t) : OperationEnds i s t := by
  cases i with
  | init => exact operationEnds_runOperation abortRaised_initBody h
  | setWindow x0 y0 x1 y1 => exact operationEnds_runOperation (abortRaised_setWindowBody x0 y0 x1 y1) h
  | writePixels bytes => exact operationEnds_runOperation (abortRaised_writePixelsBody bytes) h
  | endWrite => exact operationEnds_runOperation abortRaised_endWriteBody h
  | fill color => exact operationEnds_runOperation (abortRaised_fillBody color) h
  | convert r g b =>
    rw [exec_convert] at h
    cases h
    exact .returned rfl
  | decodeBmp hd => exact operationEnds_runOperation (abortRaised_decodeBmpBody hd) h
  | _ => cases hi

/-- A code that neither returns nor reports is that of an abort. -/
theorem OperationEnds.of_abort (h : OperationEnds i s t) {c : StCode} (hc : t.stCode = c) (hok : c ≠ .ok)
    (hstatus : c.statusOnly = false) : t.streamOpen = false ∧ AbortsAs i s t.drvState c := by
  subst hc
  cases h with
  | returned hcode => exact absurd hcode hok
  | reported hcode h =>
    subst h
    exact absurd hcode (Bool.eq_false_iff.1 hstatus)
  | aborted hclosed h => exact ⟨hclosed, h⟩

/-- The codes that report change the status and the response alone (R88, R214). -/
theorem OperationEnds.of_statusOnly (h : OperationEnds i s t) (hc : t.stCode.statusOnly = true) :
    t = { s with stCode := t.stCode, stInfo := t.stInfo, result := t.result } := by
  cases h with
  | returned hcode =>
    rw [hcode] at hc
    cases hc
  | reported hcode h =>
    subst h
    rfl
  | aborted hclosed h => exact absurd hc (Bool.eq_false_iff.1 h.not_statusOnly)

end ends

end Sys2Proof.Proofs
end

section
/-! PROOFS. The statements of spec/60_exceptions.md: the classes of completion codes (R212), the release at an abort (R216),
the code that is never raised (R229), illegal uses (R214), and the step with nothing to do (R227). -/

namespace Sys2Proof.Proofs

open Sys2Proof.Machine Sys2Proof.Safety

/-! ## With nothing waiting (R227) -/

/-- Settles O7: with no byte waiting none is refused, and the decoder idles. -/
theorem idleStays : Obligations.IdleStays := by
  intro s hn hw hin
  have hport : portRefusal s = none := by simp [portRefusal, hin]
  have hidle : fetch s = .idle := by simp [fetch, hin, decode]
  simp only [step, hn, hw, hport, runWaiting, hidle, if_true]

/-! ## Illegal uses (R22, R140, R141, R145, R214) -/

/-- An operation whose body raises IllegalStateError at once reports it and changes nothing else (R214). -/
theorem runOperation_illegalState {op : OpName} {src : Option Byte} {body : Op (Option Half)} {reason : Option Reason}
    {detail : Detail} {s : State} (h : body s = .error (.raise .illegalStateError reason detail) s) :
    runOperation op src body s = .next { s with
      stCode := .illegalStateError, stInfo := ⟨some op, src, reason, detail⟩, result := none } := by
  rw [runOperation_raise h, takeAbort_statusOnly rfl]

/-- The five pixel operations begin with the check of R22. -/
theorem exec_pixelOperation {i : Instr} {op : OpName} (h : pixelOpName i = some op) :
    ∃ x : Op (Option Half), ∀ s, exec i s = runOperation op (sourceOf i) (requireReady >>= fun _ => x) s := by
  cases i with
  | setWindow | writePixels | endWrite | fill | decodeBmp =>
    cases h
    exact ⟨_, fun _ => rfl⟩
  | _ => cases h

/-- Settles O24: each check raises in the state it finds. -/
theorem illegalStateChangesStatusOnly : Obligations.IllegalStateChangesStatusOnly := by
  refine ⟨fun i op s hop hready => ?_, fun s huninit hready => ?_, fun bytes s hready hclosed => ?_⟩
  · obtain ⟨x, hx⟩ := exec_pixelOperation hop
    have hcheck : requireReady s = raiseIllegalState s := if_neg (by simpa [pixelLegal] using hready)
    rw [hx]
    exact runOperation_illegalState (by rw [op_bind, hcheck]; rfl)
  · have hcheck : requireInitLegal s = raiseIllegalState s := if_neg (by simp [initLegal, huninit, hready])
    exact runOperation_illegalState (body := initBody) (by rw [initBody, op_bind, hcheck]; rfl)
  · have hlegal : requireReady s = .ok () s := if_pos (decide_eq_true hready)
    have hcheck : requireStream s = .error (.raise .illegalStateError (some .noOpenWindow) .none) s :=
      if_neg (Bool.eq_false_iff.1 hclosed)
    exact runOperation_illegalState (body := writePixelsBody bytes)
      (by simp only [writePixelsBody, op_bind, hlegal, hcheck])

/-! ## The classes of completion codes (R212) -/

/-- Settles O23: the code says which abort it was; WindowRangeError is the range check of SET_WINDOW, whose effect is O33. -/
theorem errorClasses : Obligations.ErrorClasses := by
  intro i s t hi h
  have hends := operationEnds_exec hi h
  refine ⟨?_, fun hc => (hends.of_abort hc nofun rfl).2, hends.of_statusOnly, fun hc hsrc => ?_⟩
  · rintro (hc | hc | hc | hc | hc | hc) <;> exact (hends.of_abort hc nofun rfl).2
  · obtain ⟨-, x0, y0, x1, y1, rfl, hready, hrange⟩ := hends.of_abort hc nofun rfl
    obtain ⟨u, hu, ⟨-, -, -, hseq⟩, hevents, hclosed, -, hdrv, hrest⟩ :=
      setWindowRangeError x0 y0 x1 y1 s hready hsrc (of_decide_eq_false hrange)
    obtain rfl : u = t := by simpa [h] using hu.symm
    obtain ⟨hdc, hrst, hctl, hgram, hcfg, hdecoder, hinputs, htx⟩ := hrest
    exact ⟨hevents, hdrv.trans hready.symm, hdc, hclosed, hrst, hseq, hctl, hgram, hcfg, hdecoder, hinputs, htx⟩

/-! ## The release at an abort (R216) -/

/-- Settles O22: an abort closes the stream, and at rest the stream alone holds the bus, no source is open and the sequencer
idles. -/
theorem abortReleases : Obligations.AbortReleases := by
  intro i s t hs hi h hok hstatus
  have hrest : Resting t := resting_exec hi hs h
  obtain ⟨hclosed, -⟩ := (operationEnds_exec hi h).of_abort rfl hok hstatus
  exact ⟨⟨hrest.selectedIffStream.trans hclosed, hclosed⟩, hrest.sourceClosed, hrest.seqIdle⟩

/-! ## ConfigParseError (R229) -/

/-- Settles O21, by the cases of a step: a construction resets the status, no host operation aborts with the code, a refused
request reports another, and what is left keeps the status. -/
theorem configParseErrorNeverRaised : Obligations.ConfigParseErrorNeverRaised := by
  intro s t hs h
  cases hn : s.newInstance with
  | some c =>
    rw [step_construct hn] at h
    split at h
    · cases h
      nofun
    · cases h
  | none =>
    obtain ⟨-, hcase⟩ := step_cases hn h
    cases hcase with
    | idle h => exact h ▸ hs
    | operation hdec hi h => exact fun hc => ((operationEnds_exec hi h).of_abort hc nofun rfl).2
    | refused hdec h =>
      subst h
      nofun
    | controller hbus h hg => exact (onlyController_stCode h).symm ▸ hs

end Sys2Proof.Proofs
end
